-- ==== Sys2Proof/Word.lean ====
section
/-! DEFINITION. The word types of the engine, the names of its two lines (00_scope.md R6, R15), and delay counts. -/

namespace Sys2Proof

/-- A register word or a command word: 32 bits (20_memory.md R52, 30_encoding.md R80). -/
abbrev Word := BitVec 32

/-- A Read-Word result, the read accumulator, or a `UOP16` word: 16 bits (10_state.md R30, R31; 30_encoding.md R86). -/
abbrev Half := BitVec 16

/-- The operand of SEND_BYTE, or one byte of a word: 8 bits (30_encoding.md R82). -/
abbrev Byte := BitVec 8

/-- The two lines of the bus (00_scope.md R15): SCL is the source's "clock", SDA its "data". -/
inductive Line where
  | scl
  | sda
  deriving DecidableEq, Repr

/-- A delay count: an integer in 1..16383, 14 bits and not 0 (40_line_driver.md R103, 30_encoding.md R86, 00_scope.md R4). -/
structure Delay where
  /-- the number of quarter periods -/
  count : Nat
  /-- R86: `WAIT 0` is no micro-op, and no larger count fits its word -/
  inRange : 1 ≤ count ∧ count ≤ 16383
  deriving DecidableEq, Repr

end Sys2Proof
end

