-- ==== Sys2Proof/Syntax.lean ====
section
/-! DEFINITION. The instructions: one constructor per row of spec/opcode_table.json.

The first five are the commands a host writes to `CMD` (30_encoding.md R81); the last four are the micro-ops a command
expands to, which only the engine itself issues (00_scope.md R14, 30_encoding.md R86). -/

namespace Sys2Proof

inductive Instr where
  /-- START, R130 -/
  | start
  /-- SEND_BYTE v, R140 -/
  | sendByte (v : Byte)
  /-- RSTART, R145 -/
  | rstart
  /-- READ_WORD, R150 -/
  | readWord
  /-- STOP, R160 -/
  | stop
  /-- REL l, R100 -/
  | rel (l : Line)
  /-- LOW l, R101 -/
  | low (l : Line)
  /-- SMP l, R102 -/
  | smp (l : Line)
  /-- WAIT n, R103 -/
  | wait (n : Delay)
  deriving DecidableEq, Repr

end Sys2Proof
end

