-- ==== Sys2Proof/WellFormed.lean ====
section
/-! DEFINITION. Which numbers are delay counts: the only operand of an instruction whose bound is not the width of its
field. A term of `Instr` holds only operands its encoding admits. -/

namespace Sys2Proof

/-- A delay count is an integer in 1..16383: `WAIT 0` is not a micro-op, and a count over 16383 does not fit `UOP16`
(30_encoding.md R86, 40_line_driver.md R103, 00_scope.md R4). -/
def delayOk (n : Nat) : Bool := decide (1 ≤ n ∧ n ≤ 16383)

/-- The delay count `n`, if `n` is one. -/
def Delay.ofNat? (n : Nat) : Option Delay := if h : 1 ≤ n ∧ n ≤ 16383 then some ⟨n, h⟩ else none

/-- The host can issue the instruction: it is one of the five commands (00_scope.md R14, 30_encoding.md R81). -/
def Instr.isCommand : Instr → Bool
  | .start => true
  | .sendByte _ => true
  | .rstart => true
  | .readWord => true
  | .stop => true
  | .rel _ => false
  | .low _ => false
  | .smp _ => false
  | .wait _ => false

end Sys2Proof
end

