-- ==== Sys2Proof/Config.lean ====
section
/-! DEFINITION. The implementation parameters of 00_scope.md R4, and the free values: what the spec leaves unspecified. -/

namespace Sys2Proof

/-- The parameters of 00_scope.md R4. Every `n…` is a number of quarter periods T. They are fixed for one machine: no step
changes them, and every statement over all states is a statement over all parameter values. Their default values are
`Machine.defaultParams`. -/
structure Params where
  /-- `T_QUARTER`, microseconds in one quarter period, OPEN in the spec -/
  tQuarter : Nat
  /-- `N_START_SETTLE` -/
  nStartSettle : Delay
  /-- `N_START_HOLD` -/
  nStartHold : Delay
  /-- `N_START_TAIL` -/
  nStartTail : Delay
  /-- `N_BIT_SETUP` -/
  nBitSetup : Delay
  /-- `N_BIT_HIGH` -/
  nBitHigh : Delay
  /-- `N_BIT_LOW` -/
  nBitLow : Delay
  /-- `N_ACK_SETUP` -/
  nAckSetup : Delay
  /-- `N_ACK_WIN` -/
  nAckWin : Delay
  /-- `N_ACK_HOLD` -/
  nAckHold : Delay
  /-- `N_RS_REL` -/
  nRsRel : Delay
  /-- `N_RS_HIGH` -/
  nRsHigh : Delay
  /-- `N_RS_HOLD` -/
  nRsHold : Delay
  /-- `N_RS_TAIL` -/
  nRsTail : Delay
  /-- `N_RD_PRE` -/
  nRdPre : Delay
  /-- `N_RD_POST` -/
  nRdPost : Delay
  /-- `N_RD_ACK_SETTLE` -/
  nRdAckSettle : Delay
  /-- `N_RD_NACK_SETTLE` -/
  nRdNackSettle : Delay
  /-- `N_STOP_HOLD` -/
  nStopHold : Delay
  /-- `N_STOP_TAIL` -/
  nStopTail : Delay
  /-- `ENGINE_BASE`, host byte address of the register block, OPEN in the spec -/
  engineBase : Nat
  deriving DecidableEq, Repr

/-- R4: T is at least one microsecond, and the register block is 16-byte aligned. That every delay count is in 1..16383 is
in its type. -/
def Params.ok (p : Params) : Bool := decide (1 ≤ p.tQuarter) && decide (p.engineBase % 16 = 0)

/-- FREE VALUE: `rx` where the spec leaves it unspecified (10_state.md R31, R39; 93_implementation_defined.md U1): what a
read of `RXDATA[15:0]` returns while `rxv = 0`, and what `rx` holds after a reset. Argument: the draw counter. -/
opaque Config.freeRx : Nat → Half

/-- FREE VALUE: `rxacc` after a reset and between READ_WORDs (10_state.md R30; 93_implementation_defined.md U3). -/
opaque Config.freeRxacc : Nat → Half

/-- FREE VALUE: the bit `SMP l` reads when the engine was driving `l` low just before, so that the line may not have
risen yet (40_line_driver.md R102; 91_not_in_source.md N3). -/
opaque Config.freeBit : Nat → Bool

end Sys2Proof
end

