-- ==== Sys2Proof/Machine/Defaults.lean ====
section
/-! DEFINITION. The default parameter values of 00_scope.md R4. -/

namespace Sys2Proof.Machine

/-- The defaults of R4's table. `T_QUARTER` and `ENGINE_BASE` are OPEN there: 1 and 0 are the model's own values for the
reset state (DESIGN CHOICE, log entry 3); no statement rests on them. -/
def defaultParams : Params where
  tQuarter := 1
  nStartSettle := ⟨100, by decide⟩
  nStartHold := ⟨1, by decide⟩
  nStartTail := ⟨4, by decide⟩
  nBitSetup := ⟨1, by decide⟩
  nBitHigh := ⟨2, by decide⟩
  nBitLow := ⟨1, by decide⟩
  nAckSetup := ⟨1, by decide⟩
  nAckWin := ⟨2, by decide⟩
  nAckHold := ⟨90, by decide⟩
  nRsRel := ⟨8, by decide⟩
  nRsHigh := ⟨2, by decide⟩
  nRsHold := ⟨2, by decide⟩
  nRsTail := ⟨16, by decide⟩
  nRdPre := ⟨1, by decide⟩
  nRdPost := ⟨1, by decide⟩
  nRdAckSettle := ⟨40, by decide⟩
  nRdNackSettle := ⟨8, by decide⟩
  nStopHold := ⟨1, by decide⟩
  nStopTail := ⟨30, by decide⟩
  engineBase := 0

end Sys2Proof.Machine
end

