-- ==== Sys2Proof/Machine/State.lean ====
section
/-! DEFINITION. The state of the machine as plain data, why a step can stop, and the state after reset.

`Engine` is the engine's own state, one field per row of 10_state.md §1. `State` puts the engine beside its surroundings
(00_scope.md R11: the host and the remote device; 10_state.md R34: these are never stored in the engine). -/

namespace Sys2Proof.Machine

/-- What the engine does to one line (10_state.md R21): no third value exists. -/
inductive Drive where
  /-- high impedance -/
  | rel
  /-- actively forced low -/
  | low
  deriving DecidableEq, Repr

/-- `drv[SCL]` and `drv[SDA]` (10_state.md R21). -/
structure Pads where
  scl : Drive
  sda : Drive
  deriving DecidableEq, Repr

/-- `phase` (10_state.md R23). -/
inductive Phase where
  | idle
  | active
  deriving DecidableEq, Repr

/-- The five commands (30_encoding.md R81). -/
inductive Cmd where
  | start
  | sendByte (v : Byte)
  | rstart
  | readWord
  | stop
  deriving DecidableEq, Repr

/-- The four micro-ops (30_encoding.md R86). -/
inductive Uop where
  | rel (l : Line)
  | low (l : Line)
  | smp (l : Line)
  | wait (n : Delay)
  deriving DecidableEq, Repr

/-- A command as an instruction. -/
def Cmd.toInstr : Cmd → Instr
  | .start => .start
  | .sendByte v => .sendByte v
  | .rstart => .rstart
  | .readWord => .readWord
  | .stop => .stop

/-- A micro-op as an instruction. -/
def Uop.toInstr : Uop → Instr
  | .rel l => .rel l
  | .low l => .low l
  | .smp l => .smp l
  | .wait n => .wait n

/-- The sticky fault flag a rejected command write sets (60_exceptions.md R171). -/
inductive RejectKind where
  | ill
  | seq
  | ovr
  deriving DecidableEq, Repr

/-- The events of `hist` (10_state.md R33). A sampled bit is a `Bool`: `true` is 1. -/
inductive Event where
  | drive (l : Line) (d : Drive)
  | sample (l : Line) (b : Bool)
  | wait (n : Delay)
  | accept (c : Cmd)
  | reject (w : Word) (k : RejectKind)
  | done (c : Cmd)
  | reset
  deriving DecidableEq, Repr

/-- The engine's state (10_state.md §1). Single bits are `Bool`: `true` is 1. -/
structure Engine where
  /-- R21 -/
  drv : Pads
  /-- R23 -/
  phase : Phase
  /-- R26, the Transfer Error Flag -/
  err : Bool
  /-- R27, the command in execution -/
  cur : Option Cmd
  /-- R27, its micro-ops not yet executed -/
  uq : List Uop
  /-- R28, the index of the next micro-op of `cur` -/
  upc : Nat
  /-- R29, the delay timer -/
  tmr : Nat
  /-- R30, the read accumulator -/
  rxacc : Half
  /-- R30, the number of samples taken -/
  nsmp : Nat
  /-- R31, the last completed Read-Word value -/
  rx : Half
  /-- R31, `rx` is valid -/
  rxv : Bool
  /-- R32, R173 -/
  ill : Bool
  /-- R32, R174 -/
  seq : Bool
  /-- R32, R172 -/
  ovr : Bool
  /-- R33, oldest first -/
  hist : List Event
  deriving DecidableEq, Repr

/-- What the remote device does to each line: `true` while it pulls the line low (40_line_driver.md R105). -/
structure Pulls where
  scl : Bool
  sda : Bool
  deriving DecidableEq, Repr

/-- The host-visible registers (20_memory.md R51). -/
inductive Reg where
  | cmd
  | status
  | rxdata
  | reserved
  deriving DecidableEq, Repr

/-- Where a host access goes (20_memory.md R50 to R52). -/
inductive Target where
  /-- a 32-bit access at the offset of a register -/
  | reg (r : Reg)
  /-- inside the register block, but not a 32-bit access at a multiple of 4 -/
  | notAdmitted
  /-- outside the register block -/
  | outside
  deriving DecidableEq, Repr

/-- One host access (20_memory.md R51, R52). -/
inductive Access where
  /-- `MemRead(addr, bytes)` -/
  | read (addr bytes : Nat)
  /-- `MemWrite(addr, bytes, v)` -/
  | write (addr bytes : Nat) (v : Word)
  deriving DecidableEq, Repr

/-- One line of a host program (30_encoding.md R87, R88). `XFER` and `READREG` are macros over these (`xfer`,
`readRegister`). -/
inductive HostLine where
  /-- R87: a command's mnemonic -/
  | command (c : Cmd)
  /-- R88 `CMD <w>` -/
  | raw (w : Word)
  /-- R88 `WAITIDLE` -/
  | waitIdle
  /-- R88 `RDSTATUS -> s` -/
  | rdStatus
  /-- R88 `RDRX -> r` -/
  | rdRx
  /-- R88 `CLRFAULT <m>` -/
  | clrFault (m : Word)
  deriving DecidableEq, Repr

/-- The value a line of a host program gives its variable (30_encoding.md R88). -/
inductive HostResult where
  /-- `s` of `RDSTATUS` -/
  | status (s : Word)
  /-- `r` of `RDRX` -/
  | rx (r : Half)
  deriving DecidableEq, Repr

/-- One action of one agent (00_scope.md R11). The agenda of `State` is a list of these: the total order of
20_memory.md R59. -/
inductive Turn where
  /-- the engine takes one step (41_bus_transport.md R121); while a reset is aborting a command, that step is the release of
  the second line, which ends the reset (70_reset_and_hazards.md R201) -/
  | engine
  /-- the host makes the next access of its program (30_encoding.md R88) -/
  | host
  /-- the host reads `bytes` bytes at `addr` (20_memory.md R51, R52) -/
  | hostRead (addr bytes : Nat)
  /-- the host writes the low `bytes` bytes of `v` at `addr` -/
  | hostWrite (addr bytes : Nat) (v : Word)
  /-- the remote device starts (`true`) or stops pulling a line low (40_line_driver.md R105, R106) -/
  | remote (l : Line) (pullsLow : Bool)
  /-- the reset input is asserted; when a command is aborted, line `first` is released first (70_reset_and_hazards.md
  R200, R201). DESIGN CHOICE (log entry 20): the spec does not say what holding the input asserted does, and the model does
  not hold it: the input is released again when the reset has taken effect. -/
  | reset (first : Line)
  deriving DecidableEq, Repr

/-- The machine: the engine, the parameters (constant along every run), and the engine's surroundings. -/
structure State where
  /-- the engine -/
  eng : Engine
  /-- 00_scope.md R4, the parameters -/
  cfg : Params
  /-- 40_line_driver.md R105, the remote device's drive -/
  pull : Pulls
  /-- 20_memory.md R59: the coming actions of all agents, next first. When it is empty, no agent but the engine acts. -/
  agenda : List Turn
  /-- what each host read returned, oldest first (20_memory.md R53) -/
  replies : List Word
  /-- 10_state.md R34, 30_encoding.md R88: the lines of the host's program still to run, next first -/
  program : List HostLine
  /-- the values the host's program has got from `RDSTATUS` and `RDRX`, oldest first -/
  results : List HostResult
  /-- 70_reset_and_hazards.md R201: the line a reset that is aborting a command has still to release -/
  resetting : Option Line
  /-- the model's own counter: how many free values have been drawn -/
  draws : Nat
  deriving DecidableEq, Repr

/-- Why a step can stop the machine. No instruction of the opcode table raises one. -/
inductive Fault where
  /-- Raised by the engine's step when a command is in execution and no micro-op is left, where R121's `head(uq)` names
  nothing. No reachable state is one (`Inv`). Safe: the model stops. -/
  | noMicroOp
  /-- Raised by a host access outside the register block, where R50 and R51 give the engine no address. Safe. -/
  | noSuchAddress
  deriving DecidableEq, Repr

/-- Why a step can refuse to give a meaning. -/
inductive Refusal where
  /-- An instruction that has no meaning yet; no arm of `exec` raises it. Safe. -/
  | notModelled (mnemonic : String)
  /-- Raised by a host access inside the register block that is not a 32-bit access at a multiple of 4: 20_memory.md R52
  refuses it. Safe. -/
  | accessNotAdmitted
  deriving DecidableEq, Repr

/-- Both lines released. -/
def Pads.released : Pads := ⟨.rel, .rel⟩

/-- 10_state.md R39: the engine after reset. `rx` and `rxacc` are unspecified there: 0 is the model's own value for the
first state (DESIGN CHOICE, log entry 2), and no read shows it while `rxv = 0`. -/
def Engine.initial : Engine where
  drv := Pads.released
  phase := .idle
  err := false
  cur := none
  uq := []
  upc := 0
  tmr := 0
  rxacc := 0#16
  nsmp := 0
  rx := 0#16
  rxv := false
  ill := false
  seq := false
  ovr := false
  hist := [.reset]

/-- The machine after reset with parameters `p` and the coming actions `agenda`; the remote device pulls no line (DESIGN
CHOICE, log entry 5). -/
def State.resetWith (p : Params) (agenda : List Turn) : State where
  eng := Engine.initial
  cfg := p
  pull := ⟨false, false⟩
  agenda := agenda
  replies := []
  program := []
  results := []
  resetting := none
  draws := 0

/-- The machine right after reset, with the default parameters (R4) and nothing on the agenda. -/
def State.reset : State := State.resetWith defaultParams []

end Sys2Proof.Machine
end

