-- ==== Sys2Proof/Machine/Operands.lean ====
section
/-! DEFINITION. The operand forms: a line (R86), a byte taken bit by bit (R56, R82), and the assembly of a Read-Word
value from its samples (R30, R150). -/

namespace Sys2Proof.Machine

/-- `drv[l]` (10_state.md R21). -/
def Pads.get (d : Pads) : Line → Drive
  | .scl => d.scl
  | .sda => d.sda

/-- `drv[l] <- x`. -/
def Pads.set (d : Pads) (l : Line) (x : Drive) : Pads :=
  match l with
  | .scl => { d with scl := x }
  | .sda => { d with sda := x }

/-- `remote_low(l)` (40_line_driver.md R105). -/
def Pulls.get (p : Pulls) : Line → Bool
  | .scl => p.scl
  | .sda => p.sda

/-- The remote device changes its drive of line `l`. -/
def Pulls.set (p : Pulls) (l : Line) (x : Bool) : Pulls :=
  match l with
  | .scl => { p with scl := x }
  | .sda => { p with sda := x }

/-- The other line. -/
def otherLine : Line → Line
  | .scl => .sda
  | .sda => .scl

/-- The bits of a byte in wire order, most significant first (20_memory.md R56). -/
def byteBits (v : Byte) : List Bool :=
  [v.getLsbD 7, v.getLsbD 6, v.getLsbD 5, v.getLsbD 4, v.getLsbD 3, v.getLsbD 2, v.getLsbD 1, v.getLsbD 0]

/-- R123: a 0 is put on SDA by driving it low, a 1 by releasing it. -/
def dataUop (x : Bool) : Uop := if x then .rel .sda else .low .sda

/-- `acc[i] <- b`. -/
def setBit (acc : Half) (i : Nat) (b : Bool) : Half :=
  if b then acc ||| (1#16 <<< i) else acc &&& ~~~(1#16 <<< i)

/-- 10_state.md R30: sample number `k` of a READ_WORD goes to bit `15 - k` of the sample string; there are 16 samples. -/
def putSample (acc : Half) (k : Nat) (b : Bool) : Half :=
  if k < 16 then setBit acc (15 - k) b else acc

/-- R150: the value of a Read-Word from its 16 samples, `low | (high << 8)`. -/
def assembleWord (acc : Half) : Half :=
  let low : Half := (acc.extractLsb 15 8).setWidth 16
  let high : Half := (acc.extractLsb 7 0).setWidth 16
  low ||| (high <<< 8)

end Sys2Proof.Machine
end

