-- ==== Sys2Proof/Machine/Expand.lean ====
section
/-! DEFINITION. The expansion of each command into its micro-ops (41_bus_transport.md R123, R130, R140, R145, R150, R160). -/

namespace Sys2Proof.Machine

/-- R123: the clock pulse. -/
def pulse (p : Params) : List Uop :=
  [.rel .scl, .wait p.nBitHigh, .low .scl, .wait p.nBitLow]

/-- R123: the transmit bit cell. -/
def txbit (p : Params) (x : Bool) : List Uop :=
  [dataUop x, .wait p.nBitSetup] ++ pulse p

/-- R123: the receive bit cell. -/
def rxbit (p : Params) : List Uop :=
  [.wait p.nBitSetup, .rel .scl, .wait p.nRdPre, .smp .sda, .wait p.nRdPost, .low .scl, .wait p.nBitLow]

/-- Eight receive bit cells: one byte (R150). -/
def rxbyte (p : Params) : List Uop := (List.replicate 8 (rxbit p)).flatten

/-- R130 -/
def expandStart (p : Params) : List Uop :=
  [.rel .sda, .rel .scl, .wait p.nStartSettle, .low .sda, .wait p.nStartHold, .low .scl, .wait p.nStartTail]

/-- R140: the acknowledge phase of SEND_BYTE. -/
def ackPhase (p : Params) : List Uop :=
  [.rel .sda, .wait p.nAckSetup, .rel .scl, .wait p.nAckWin, .smp .sda, .low .scl, .low .sda, .wait p.nAckHold]

/-- R140 -/
def expandSendByte (p : Params) (v : Byte) : List Uop :=
  (byteBits v).flatMap (txbit p) ++ ackPhase p

/-- R145 -/
def expandRstart (p : Params) : List Uop :=
  [.rel .sda, .wait p.nRsRel, .rel .scl, .wait p.nRsHigh, .low .sda, .wait p.nRsHold, .low .scl, .wait p.nRsTail]

/-- R150 -/
def expandReadWord (p : Params) : List Uop :=
  [.rel .sda] ++ rxbyte p ++ txbit p false ++ [.wait p.nRdAckSettle] ++
  [.rel .sda] ++ rxbyte p ++ txbit p true ++ [.wait p.nRdNackSettle]

/-- R160 -/
def expandStop (p : Params) : List Uop :=
  [.rel .scl, .wait p.nStopHold, .rel .sda, .wait p.nStopTail]

/-- `expand(c)` (10_state.md R27): a function of the command and the parameters alone (R124). -/
def expand (p : Params) : Cmd → List Uop
  | .start => expandStart p
  | .sendByte v => expandSendByte p v
  | .rstart => expandRstart p
  | .readWord => expandReadWord p
  | .stop => expandStop p

/-- The sum of the WAIT counts: the nominal duration in quarter periods (R122). -/
def nominal : List Uop → Nat
  | [] => 0
  | .wait n :: us => n.count + nominal us
  | .rel _ :: us => nominal us
  | .low _ :: us => nominal us
  | .smp _ :: us => nominal us

/-- The least time micro-ops can take, in microseconds: `n × T_QUARTER` for each `WAIT n`, with no upper bound (00_scope.md
R9, 40_line_driver.md R103). -/
def leastMicros (p : Params) (us : List Uop) : Nat := nominal us * p.tQuarter

/-- The micro-ops other than WAIT with their nominal offsets from `t` (70_reset_and_hazards.md §4). -/
def timeline (t : Nat) : List Uop → List (Nat × Uop)
  | [] => []
  | .wait n :: us => timeline (t + n.count) us
  | .rel l :: us => (t, .rel l) :: timeline t us
  | .low l :: us => (t, .low l) :: timeline t us
  | .smp l :: us => (t, .smp l) :: timeline t us

end Sys2Proof.Machine
end

