-- ==== Sys2Proof/Decode.lean ====
section
/-! DEFINITION. The decoder of command words (`CMD32`, 30_encoding.md R80 to R85) and of micro-op words (`UOP16`, R86),
total on any bytes and rejecting by name, and after it the encoder. -/

namespace Sys2Proof

/-- Why a word is no instruction. -/
inductive DecodeError where
  /-- R83 case 1: `w[31:16] ≠ 0` -/
  | reservedHigh
  /-- R83 case 2: `w[11:8] ≠ 0` -/
  | reservedMid
  /-- R83 case 3: `OP` is 0x0 or 0x6..0xF -/
  | noSuchOp
  /-- R83 case 4: `DATA ≠ 0` on a command other than SEND_BYTE -/
  | dataNotZero
  /-- R86: bits 13:1 of a REL, LOW or SMP word are not 0 -/
  | uopReserved
  /-- R86: `WAIT 0` is not a micro-op -/
  | waitZero
  /-- R85, R86: neither one 32-bit command word nor one 16-bit micro-op word -/
  | badLength
  deriving DecidableEq, Repr

/-- 30_encoding.md R84: the decoder of command words, total on 32 bits. -/
def decodeCmd (w : Word) : Except DecodeError Instr :=
  if w.extractLsb 31 16 ≠ 0 then .error .reservedHigh
  else if w.extractLsb 11 8 ≠ 0 then .error .reservedMid
  else match (w.extractLsb 15 12).toNat with
    | 1 => if w.extractLsb 7 0 = 0 then .ok .start else .error .dataNotZero
    | 2 => .ok (.sendByte (w.extractLsb 7 0))
    | 3 => if w.extractLsb 7 0 = 0 then .ok .rstart else .error .dataNotZero
    | 4 => if w.extractLsb 7 0 = 0 then .ok .readWord else .error .dataNotZero
    | 5 => if w.extractLsb 7 0 = 0 then .ok .stop else .error .dataNotZero
    | _ => .error .noSuchOp

/-- R86: bit 0 of a REL, LOW or SMP word names the line: 0 is SCL, 1 is SDA. -/
def lineOfBit (b : Bool) : Line := if b then .sda else .scl

/-- R86: a REL, LOW or SMP word: bits 13:1 are 0 and bit 0 is the line. -/
def lineOperand (w : Half) (op : Line → Instr) : Except DecodeError Instr :=
  if w.extractLsb 13 1 = 0 then .ok (op (lineOfBit (w.getLsbD 0))) else .error .uopReserved

/-- 30_encoding.md R86: the decoder of micro-op words, total on 16 bits. -/
def decodeUop (w : Half) : Except DecodeError Instr :=
  match (w.extractLsb 15 14).toNat with
  | 0 => lineOperand w .rel
  | 1 => lineOperand w .low
  | 2 => lineOperand w .smp
  | _ => match Delay.ofNat? (w.extractLsb 13 0).toNat with
    | some n => .ok (.wait n)
    | none => .error .waitZero

/-- Little-endian words (20_memory.md R55): the byte at offset +0 holds bits 7:0. -/
def wordOfBytes (b0 b1 b2 b3 : Byte) : Word :=
  BitVec.ofNat 32 (b0.toNat + 2 ^ 8 * b1.toNat + 2 ^ 16 * b2.toNat + 2 ^ 24 * b3.toNat)

/-- The 16-bit word of two bytes, low byte first. DESIGN CHOICE (log entry 19): R55 gives the byte order of the register words
only, and the spec gives none for a `UOP16` word, which is never stored in bytes. -/
def halfOfBytes (b0 b1 : Byte) : Half := BitVec.ofNat 16 (b0.toNat + 2 ^ 8 * b1.toNat)

/-- The decoder on bytes, lowest address first: four bytes are a command word, two a micro-op word (R85, R86). -/
def decodeBytes : List Byte → Except DecodeError Instr
  | [b0, b1, b2, b3] => decodeCmd (wordOfBytes b0 b1 b2 b3)
  | [b0, b1] => decodeUop (halfOfBytes b0 b1)
  | _ => .error .badLength

/-- The `k` lowest bytes of `w`, lowest first. -/
def bytesLE : Nat → Nat → List Byte
  | 0, _ => []
  | k + 1, w => BitVec.ofNat 8 w :: bytesLE k (w / 256)

/-- The instruction a word of spec/opcode_table.json's numbering decodes to; `nbits` is 32 for `CMD32`, 16 for `UOP16`. -/
def decodeTableWord (nbits w : Nat) : Option Instr :=
  if w < 2 ^ nbits ∧ nbits % 8 = 0 then (decodeBytes (bytesLE (nbits / 8) w)).toOption else none

/-! ## The encoder -/

/-- R86: the bit that names a line. -/
def bitOfLine : Line → Nat
  | .scl => 0
  | .sda => 1

/-- The words of 30_encoding.md R81 and R86, as numbers. -/
def encodeNat : Instr → Nat
  | .start => 0x1000
  | .sendByte v => 0x2000 + v.toNat
  | .rstart => 0x3000
  | .readWord => 0x4000
  | .stop => 0x5000
  | .rel l => 0x0000 + bitOfLine l
  | .low l => 0x4000 + bitOfLine l
  | .smp l => 0x8000 + bitOfLine l
  | .wait n => 0xC000 + n.count

/-- The length of an instruction's word in bytes: a command is one 32-bit word (R85), a micro-op one 16-bit word (R86). -/
def encodedBytes (i : Instr) : Nat := if i.isCommand then 4 else 2

/-- The word of an instruction in bytes, lowest first: a command word little-endian as the register words are (R55), a
micro-op word little-endian too (DESIGN CHOICE, log entry 19). -/
def encode (i : Instr) : List Byte := bytesLE (encodedBytes i) (encodeNat i)

/-- The command word of a command, as it is written to `CMD` (R81, R87). -/
def commandWord (i : Instr) : Word := BitVec.ofNat 32 (encodeNat i)

end Sys2Proof
end

