-- ==== Sys2Proof/Machine/Flags.lean ====
section
/-! DEFINITION. The flags: the STATUS word and its write (10_state.md R35), and the sticky fault flags (R32). -/

namespace Sys2Proof.Machine

/-- The word with bit `i` equal to `b` and every other bit 0. -/
def bitAt (i : Nat) (b : Bool) : Word := if b then 1#32 <<< i else 0#32

/-- `STATUS.BUSY` (R27): a command is in execution. -/
def Engine.busy (e : Engine) : Bool := e.cur.isSome

/-- 10_state.md R35: the word a read of STATUS returns; bits 31:9 read 0. -/
def Engine.statusWord (e : Engine) : Word :=
  bitAt 0 e.busy ||| bitAt 1 (e.phase == .active) ||| bitAt 2 e.err ||| bitAt 3 e.rxv |||
  bitAt 4 e.ill ||| bitAt 5 e.seq ||| bitAt 6 e.ovr |||
  bitAt 7 (e.drv.scl == .low) ||| bitAt 8 (e.drv.sda == .low)

/-- 10_state.md R35: a write of STATUS clears the fault flags whose bit is 1 in `v`, and does nothing else. -/
def Engine.writeStatus (e : Engine) (v : Word) : Engine :=
  { e with
    ill := e.ill && !v.getLsbD 4
    seq := e.seq && !v.getLsbD 5
    ovr := e.ovr && !v.getLsbD 6 }

/-- The sticky flag `STATUS.<kind>` of a fault (60_exceptions.md R171). -/
def Engine.flag (e : Engine) : RejectKind → Bool
  | .ill => e.ill
  | .seq => e.seq
  | .ovr => e.ovr

/-- Sets the sticky flag of a fault and nothing else (10_state.md R32; a flag that is 1 stays 1, R177). -/
def Engine.setFlag (e : Engine) : RejectKind → Engine
  | .ill => { e with ill := true }
  | .seq => { e with seq := true }
  | .ovr => { e with ovr := true }

end Sys2Proof.Machine
end

