-- ==== Sys2Proof/Machine/Ops.lean ====
section
/-! DEFINITION. The shared operations: the effects on the lines (40_line_driver.md), a fault and its clearing
(60_exceptions.md), acceptance, delivery and completion of a command (41_bus_transport.md), the register block
(20_memory.md) and reset (70_reset_and_hazards.md). -/

namespace Sys2Proof.Machine

/-! ## History and lines -/

/-- `hist <- hist ++ [ev]` (10_state.md R33). -/
def Engine.log (e : Engine) (ev : Event) : Engine := { e with hist := e.hist ++ [ev] }

/-- `drv[l] <- x`. -/
def Engine.setDrv (e : Engine) (l : Line) (x : Drive) : Engine := { e with drv := e.drv.set l x }

/-- R100: `drv[l] <- Rel; hist <- hist ++ [Drive(l, Rel)]`. -/
def Engine.release (e : Engine) (l : Line) : Engine := (e.setDrv l .rel).log (.drive l .rel)

/-- R101: `drv[l] <- Low; hist <- hist ++ [Drive(l, Low)]`. -/
def Engine.assertLow (e : Engine) (l : Line) : Engine := (e.setDrv l .low).log (.drive l .low)

/-- R105: a line is high exactly when nobody drives it low. -/
def State.level (s : State) (l : Line) : Bool := s.eng.drv.get l == .rel && !s.pull.get l

/-- R102: what `SMP l` reads. If the line was released, its level once released (R105). If the engine was driving it low,
the line may not have risen yet, and the bit is a free value (R102, corner cases; 91_not_in_source.md N3). -/
def State.sampled (s : State) (l : Line) : Bool :=
  match s.eng.drv.get l with
  | .rel => !s.pull.get l
  | .low => Config.freeBit s.draws

/-- R103's loop, `while tmr > 0: tmr <- tmr - 1`: the value of the timer when the loop ends. -/
def countDown : Nat → Nat
  | 0 => 0
  | t + 1 => countDown t

/-- R103: `tmr <- n`, the loop, `hist <- hist ++ [Wait(n)]`. The model has no time (00_scope.md R9), so the loop is one step. -/
def Engine.delay (e : Engine) (n : Delay) : Engine := ({ e with tmr := countDown n.count }).log (.wait n)

/-! ## Faults (60_exceptions.md) -/

/-- `raise Fault(kind)` (00_scope.md R8, 60_exceptions.md R171): the sticky flag and a `Reject` event. This is all that a
fault does: no control is transferred, nothing is saved (R176). -/
def Engine.raise (e : Engine) (w : Word) (k : RejectKind) : Engine := (e.setFlag k).log (.reject w k)

/-! ## Commands (41_bus_transport.md) -/

/-- R120: START is legal in Idle, every other command in Active. -/
def Cmd.entryPhase : Cmd → Phase
  | .start => .idle
  | .sendByte _ => .active
  | .rstart => .active
  | .readWord => .active
  | .stop => .active

/-- The acceptance actions of each command (R130, R140, R145, R150, R160). -/
def Engine.acceptActions (e : Engine) : Cmd → Engine
  | .start => { e with err := false, rxv := false }
  | .sendByte _ => e
  | .rstart => e
  | .readWord => { e with rxv := false, nsmp := 0 }
  | .stop => e

/-- The end of R120: an accepted command. -/
def Engine.accept (e : Engine) (p : Params) (c : Cmd) : Engine :=
  ({ e.acceptActions c with cur := some c, upc := 0, uq := expand p c }).log (.accept c)

/-- The word of a command, as a rejected write of it records it. -/
def Cmd.word (c : Cmd) : Word := commandWord c.toInstr

/-- R120 for a word that decodes to the command `c`: OVR if BUSY, else SEQ if out of phase, else accepted. -/
def Engine.submit (e : Engine) (p : Params) (c : Cmd) : Engine :=
  if e.busy then e.raise c.word .ovr
  else if e.phase = c.entryPhase then e.accept p c
  else e.raise c.word .seq

/-- R120 for a word that decodes to no command: OVR if BUSY (the word is not decoded), else ILL (R172, R173). -/
def Engine.submitIllegal (e : Engine) (w : Word) : Engine :=
  if e.busy then e.raise w .ovr else e.raise w .ill

/-- `deliver(c, b)` (R121): SEND_BYTE's acknowledge sample sets `err` (R140), READ_WORD's samples go to `rxacc` (R150). -/
def Engine.deliver (e : Engine) (c : Option Cmd) (b : Bool) : Engine :=
  match c with
  | some (.sendByte _) => { e with err := e.err || b }
  | some .readWord => { e with rxacc := putSample e.rxacc e.nsmp b, nsmp := e.nsmp + 1 }
  | some .start => e
  | some .rstart => e
  | some .stop => e
  | none => e

/-- The completion actions of each command (R130, R140, R145, R150, R160). From READ_WORD's completion on `rxacc` is
unspecified (10_state.md R30): it becomes the free value `junk`. -/
def Engine.completeActions (e : Engine) (junk : Half) : Cmd → Engine
  | .start => { e with phase := .active }
  | .sendByte _ => e
  | .rstart => e
  | .readWord => { e with rx := assembleWord e.rxacc, rxv := true, rxacc := junk }
  | .stop => { e with phase := .idle }

/-- The end of R121: completion actions, `hist <- hist ++ [Done(c)]`, `cur <- none`. -/
def Engine.complete (e : Engine) (junk : Half) (c : Cmd) : Engine :=
  { (e.completeActions junk c).log (.done c) with cur := none }

/-- The start of R121: the head of `uq` is removed, leaving `rest`, and `upc` advances. -/
def State.popUop (s : State) (rest : List Uop) : State :=
  { s with eng := { s.eng with uq := rest, upc := s.eng.upc + 1 } }

/-- The end of R121: when `uq` has become empty, the command `c` completes in the same step. -/
def State.finish (s : State) (c : Cmd) : State :=
  if s.eng.uq = [] then
    { s with eng := s.eng.complete (Config.freeRxacc s.draws) c, draws := s.draws + 1 }
  else s

/-! ## The register block (20_memory.md) -/

/-- R50 to R52: where an access of `bytes` bytes at the host address `addr` goes. -/
def locate (p : Params) (addr bytes : Nat) : Target :=
  if addr < p.engineBase ∨ p.engineBase + 16 ≤ addr then .outside
  else if bytes = 4 then
    match addr - p.engineBase with
    | 0 => .reg .cmd
    | 4 => .reg .status
    | 8 => .reg .rxdata
    | 12 => .reg .reserved
    | _ => .notAdmitted
  else .notAdmitted

/-- 10_state.md R35 to R38: what a read of a register returns. `RXDATA[15:0]` is a free value while `rxv = 0` (R31). -/
def State.regValue (s : State) : Reg → Word
  | .cmd => 0#32
  | .status => s.eng.statusWord
  | .rxdata => (if s.eng.rxv then s.eng.rx else Config.freeRx s.draws).setWidth 32
  | .reserved => 0#32

/-- A host read (20_memory.md R54: no side effect on the engine). -/
def State.readReg (s : State) (r : Reg) : State :=
  { s with replies := s.replies ++ [s.regValue r], draws := s.draws + 1 }

/-! ## The remote device and reset -/

/-- The remote device changes its drive of a line (40_line_driver.md R105, R106). -/
def State.remotePull (s : State) (l : Line) (x : Bool) : State := { s with pull := s.pull.set l x }

/-- 70_reset_and_hazards.md R200: every piece of engine state takes its value of 10_state.md R39, `rx` and `rxacc` the free
values `rx` and `acc`; `hist` is kept and gets `Reset` (R33, R201). -/
def Engine.resetTo (e : Engine) (rx acc : Half) : Engine :=
  ({ Engine.initial with rx := rx, rxacc := acc, hist := e.hist }).log .reset

/-- Reset takes effect (R200): it acts on the engine alone, and the reset is over. -/
def State.resetNow (s : State) : State :=
  { s with
    eng := s.eng.resetTo (Config.freeRx s.draws) (Config.freeRxacc s.draws)
    draws := s.draws + 1
    resetting := none }

/-- The end of a reset that aborts a command (R201): the second line is released, and reset takes effect. -/
def State.resetEnd (s : State) (second : Line) : State :=
  State.resetNow { s with eng := s.eng.release second }

/-- The reset input is asserted (R200, R201). With no command in execution it takes effect at once. A command in execution is
aborted: the line `first` is released now, and the other one at the engine's next step, any time later; everything else keeps
its value until then (DEDUCED, log entry 6). While that reset is in progress the input is asserted already, and nothing
happens (DESIGN CHOICE, log entry 20). -/
def State.resetBegin (s : State) (first : Line) : State :=
  match s.eng.cur, s.resetting with
  | none, _ => s.resetNow
  | some _, none => { s with eng := s.eng.release first, resetting := some (otherLine first) }
  | some _, some _ => s

end Sys2Proof.Machine
end

