-- ==== Sys2Proof/Machine/BusTransport.lean ====
section
/-! DEFINITION. The Bus Transport's commands (41_bus_transport.md). The meaning of a command is what the host's write of its
word does (R120): it is accepted, or it raises OVR or SEQ. What an accepted command then does is its expansion, run one
micro-op a step (R121), its delivery and its completion actions, which `Machine/Ops.lean` gives per command. -/

namespace Sys2Proof.Machine

/-- START (R130). -/
def execStart (s : State) : Host.Outcome State Fault Refusal :=
  .next { s with eng := s.eng.submit s.cfg .start }

/-- SEND_BYTE v (R140). -/
def execSendByte (v : Byte) (s : State) : Host.Outcome State Fault Refusal :=
  .next { s with eng := s.eng.submit s.cfg (.sendByte v) }

/-- RSTART (R145). -/
def execRstart (s : State) : Host.Outcome State Fault Refusal :=
  .next { s with eng := s.eng.submit s.cfg .rstart }

/-- READ_WORD (R150). -/
def execReadWord (s : State) : Host.Outcome State Fault Refusal :=
  .next { s with eng := s.eng.submit s.cfg .readWord }

/-- STOP (R160). -/
def execStop (s : State) : Host.Outcome State Fault Refusal :=
  .next { s with eng := s.eng.submit s.cfg .stop }

end Sys2Proof.Machine
end

