-- ==== Sys2Proof/Machine/LineDriver.lean ====
section
/-! DEFINITION. The Line Driver's micro-ops REL, LOW, SMP and WAIT (40_line_driver.md R100 to R103). -/

namespace Sys2Proof.Machine

/-- REL l (R100). -/
def execRel (l : Line) (s : State) : Host.Outcome State Fault Refusal :=
  .next { s with eng := s.eng.release l }

/-- LOW l (R101). -/
def execLow (l : Line) (s : State) : Host.Outcome State Fault Refusal :=
  .next { s with eng := s.eng.assertLow l }

/-- SMP l (R102): the line is released and read, and a sample of SDA is delivered to the command in execution (R121). -/
def execSmp (l : Line) (s : State) : Host.Outcome State Fault Refusal :=
  let b := s.sampled l
  let e := (s.eng.setDrv l .rel).log (.sample l b)
  let e' := if l = .sda then e.deliver e.cur b else e
  .next { s with eng := e', draws := s.draws + 1 }

/-- WAIT n (R103). -/
def execWait (n : Delay) (s : State) : Host.Outcome State Fault Refusal :=
  .next { s with eng := s.eng.delay n }

end Sys2Proof.Machine
end

