-- ==== Sys2Proof/Machine/Dispatch.lean ====
section
/-! DEFINITION. The meaning of every instruction, one arm per constructor of `Instr`. -/

namespace Sys2Proof.Machine

def exec (i : Instr) (s : State) : Host.Outcome State Fault Refusal :=
  match i with
  | .start => Sys2Proof.Machine.execStart s
  | .sendByte v => Sys2Proof.Machine.execSendByte v s
  | .rstart => Sys2Proof.Machine.execRstart s
  | .readWord => Sys2Proof.Machine.execReadWord s
  | .stop => Sys2Proof.Machine.execStop s
  | .rel l => Sys2Proof.Machine.execRel l s
  | .low l => Sys2Proof.Machine.execLow l s
  | .smp l => Sys2Proof.Machine.execSmp l s
  | .wait n => Sys2Proof.Machine.execWait n s

end Sys2Proof.Machine
end

