-- ==== Sys2Proof/Machine/HostLines.lean ====
section
/-! DEFINITION. The lines of a host program (30_encoding.md R87, R88): the access each line makes, and what the line does with
what the access returns. -/

namespace Sys2Proof.Machine

/-- The access a line makes (R87, R88). `WAITIDLE` makes this one at each poll. -/
def HostLine.access (p : Params) : HostLine → Access
  | .command c => .write p.engineBase 4 c.word
  | .raw w => .write p.engineBase 4 w
  | .waitIdle => .read (p.engineBase + 4) 4
  | .rdStatus => .read (p.engineBase + 4) 4
  | .rdRx => .read (p.engineBase + 8) 4
  | .clrFault m => .write (p.engineBase + 4) 4 (m &&& 0x70#32)

/-- What the last host read returned. -/
def State.lastReply (s : State) : Word := s.replies.getLast?.getD 0#32

/-- After the access of the line `l`, with the lines `rest` behind it: `WAITIDLE` repeats until `s[0] = 0`, `RDSTATUS` and
`RDRX` give their variables values, and every line but a `WAITIDLE` that saw `s[0] = 1` is done (R88). -/
def State.afterLine (s : State) (l : HostLine) (rest : List HostLine) : State :=
  match l with
  | .command _ => { s with program := rest }
  | .raw _ => { s with program := rest }
  | .waitIdle => if s.lastReply.getLsbD 0 then s else { s with program := rest }
  | .rdStatus => { s with program := rest, results := s.results ++ [.status s.lastReply] }
  | .rdRx => { s with program := rest, results := s.results ++ [.rx (s.lastReply.extractLsb' 0 16)] }
  | .clrFault _ => { s with program := rest }

/-- R88 `XFER <c>`: the command line, then `WAITIDLE`. -/
def xfer (c : Cmd) : List HostLine := [.command c, .waitIdle]

/-- The commands of the canonical register read (41_bus_transport.md R167). -/
def registerReadCommands (wa rp ra : Byte) : List Cmd :=
  [.start, .sendByte wa, .sendByte rp, .rstart, .sendByte ra, .readWord, .stop]

/-- R88 `READREG <wa>, <rp>, <ra>`: an `XFER` of each command of the register read. -/
def readRegister (wa rp ra : Byte) : List HostLine := (registerReadCommands wa rp ra).flatMap xfer

end Sys2Proof.Machine
end

