-- ==== Sys2Proof/Machine/Turns.lean ====
section
/-! DEFINITION. What each agent's action does: the engine's step (41_bus_transport.md R121), the host's accesses
(20_memory.md R50 to R54, 41_bus_transport.md R120), the remote device and reset. `Step.lean` only chooses among them. -/

namespace Sys2Proof.Machine

/-- What follows an outcome that is a next state. -/
def andThen (o : Host.Outcome State Fault Refusal) (f : State → State) : Host.Outcome State Fault Refusal :=
  match o with
  | .next t => .next (f t)
  | .fault r => .fault r
  | .refused r => .refused r

/-- R121: the engine's step inside the command `c`. -/
def commandTurn (c : Cmd) (s : State) : Host.Outcome State Fault Refusal :=
  match s.eng.uq with
  | [] => .fault .noMicroOp
  | u :: rest => andThen (exec u.toInstr (s.popUop rest)) (fun t => t.finish c)

/-- One engine step: R121; the end of the reset that is aborting the command (70_reset_and_hazards.md R201); or nothing, with
no command in execution (60_exceptions.md R187). -/
def engineTurn (s : State) : Host.Outcome State Fault Refusal :=
  match s.eng.cur, s.resetting with
  | none, _ => .next s
  | some c, none => commandTurn c s
  | some _, some l => .next (s.resetEnd l)

/-- R120: the host writes the word `w` to `CMD`. -/
def writeCmd (w : Word) (s : State) : Host.Outcome State Fault Refusal :=
  match decodeCmd w with
  | .ok i => exec i s
  | .error _ => .next { s with eng := s.eng.submitIllegal w }

/-- R54: the host writes `v` to a register. -/
def writeReg (r : Reg) (v : Word) (s : State) : Host.Outcome State Fault Refusal :=
  match r with
  | .cmd => writeCmd v s
  | .status => .next { s with eng := s.eng.writeStatus v }
  | .rxdata => .next s
  | .reserved => .next s

/-- A host read of `bytes` bytes at `addr`. -/
def hostReadTurn (addr bytes : Nat) (s : State) : Host.Outcome State Fault Refusal :=
  match locate s.cfg addr bytes with
  | .reg r => .next (s.readReg r)
  | .notAdmitted => .refused .accessNotAdmitted
  | .outside => .fault .noSuchAddress

/-- A host write of `bytes` bytes at `addr`. -/
def hostWriteTurn (addr bytes : Nat) (v : Word) (s : State) : Host.Outcome State Fault Refusal :=
  match locate s.cfg addr bytes with
  | .reg r => writeReg r v s
  | .notAdmitted => .refused .accessNotAdmitted
  | .outside => .fault .noSuchAddress

/-- A host access. -/
def accessTurn (a : Access) (s : State) : Host.Outcome State Fault Refusal :=
  match a with
  | .read addr bytes => hostReadTurn addr bytes s
  | .write addr bytes v => hostWriteTurn addr bytes v s

/-- The host makes the next access of its program (30_encoding.md R88); with no line left it does nothing. -/
def hostTurn (s : State) : Host.Outcome State Fault Refusal :=
  match s.program with
  | [] => .next s
  | l :: rest => andThen (accessTurn (l.access s.cfg) s) (fun t => t.afterLine l rest)

/-- One action of one agent (00_scope.md R11). -/
def takeTurn (t : Turn) (s : State) : Host.Outcome State Fault Refusal :=
  match t with
  | .engine => engineTurn s
  | .host => hostTurn s
  | .hostRead addr bytes => accessTurn (.read addr bytes) s
  | .hostWrite addr bytes v => accessTurn (.write addr bytes v) s
  | .remote l x => .next (s.remotePull l x)
  | .reset first => .next (s.resetBegin first)

/-- The action that comes next: the head of the agenda, or the engine's when nothing is on it. -/
def nextTurn (s : State) : Turn :=
  match s.agenda with
  | [] => .engine
  | t :: _ => t

/-- The state in which the next action is taken: the agenda without it. -/
def dropTurn (s : State) : State := { s with agenda := s.agenda.tail }

/-- The micro-op a word of 16 bits stands for (30_encoding.md R86), or none. -/
def uopOfWord (w : Half) : Option Uop :=
  match decodeUop w with
  | .ok (.rel l) => some (.rel l)
  | .ok (.low l) => some (.low l)
  | .ok (.smp l) => some (.smp l)
  | .ok (.wait n) => some (.wait n)
  | _ => none

/-- `s` with a command word next on the agenda, as a host write to `CMD` (R87). -/
def State.withCommandWord (s : State) (w : Word) : State :=
  { s with agenda := .hostWrite s.cfg.engineBase 4 w :: s.agenda }

/-- `s` with a micro-op word at the head of `uq` and the engine's step next. A micro-op runs only as part of a command (R109):
with none in execution, RSTART stands in, which delivers no sample and has no completion action. A word that is no micro-op
leaves nothing to run, and the engine's step stops. -/
def State.withUopWord (s : State) (w : Half) : State :=
  { s with
    agenda := .engine :: s.agenda
    resetting := none
    eng := { s.eng with
      cur := some (s.eng.cur.getD .rstart)
      uq := match uopOfWord w with
        | some u => u :: s.eng.uq
        | none => [] } }

end Sys2Proof.Machine
end

