-- ==== Sys2Proof/Machine/Step.lean ====
section
/-! DEFINITION. One step of the machine: the next action of the agenda (20_memory.md R59). -/

namespace Sys2Proof.Machine

/-- One step: the next action is taken off the agenda and done. -/
def step (s : State) : Host.Outcome State Fault Refusal := takeTurn (nextTurn s) (dropTurn s)

/-- `s` made ready so that the very next step runs the instruction whose word is `w`, numbered as spec/opcode_table.json
numbers it: a command word as the host's write of it to `CMD`, a micro-op word at the head of `uq` (log entry 7). -/
def State.withFetchWord (s : State) (nbits w : Nat) : State :=
  if nbits = 16 then s.withUopWord (BitVec.ofNat 16 w) else s.withCommandWord (BitVec.ofNat 32 w)

end Sys2Proof.Machine
end

