-- ==== Sys2Proof/Safety.lean ====
section
/-! DEFINITION. The terms claims are stated in: runs and reachable states, the invariant of the machine, what an observer
of `hist` knows, the wire conditions, and the command grammar. -/

namespace Sys2Proof

open Machine

/-! ## Runs -/

/-- `k` steps of the machine from `s`, stopping at a fault or a refusal. -/
def runSteps : Nat → State → Host.Outcome State Fault Refusal
  | 0, s => .next s
  | k + 1, s => andThenRun (step s) (runSteps k)
where
  /-- What follows a step that reaches a next state. -/
  andThenRun (o : Host.Outcome State Fault Refusal) (f : State → Host.Outcome State Fault Refusal) :
      Host.Outcome State Fault Refusal :=
    match o with
    | .next t => f t
    | .fault r => .fault r
    | .refused r => .refused r

/-- `s` is reached from reset: under some parameters in range (R4) and some actions of the host, the remote device and the
reset input, in some order with the engine's steps (20_memory.md R59). -/
def Reachable (s : State) : Prop :=
  ∃ (p : Params) (agenda : List Turn) (k : Nat), p.ok = true ∧ runSteps k (State.resetWith p agenda) = .next s

/-- No `Reject` event is in the history: the premise of a claim about a program (60_exceptions.md R178). -/
def NoReject (hist : List Event) : Prop := ∀ w k, Event.reject w k ∉ hist

/-! ## What a step is about to do -/

/-- The host access the next action makes: the host's own, or that of the next line of its program (30_encoding.md R88). -/
def nextAccess (s : State) : Option Access :=
  match nextTurn s with
  | .engine => none
  | .host => s.program.head?.map (fun l => l.access s.cfg)
  | .hostRead a n => some (.read a n)
  | .hostWrite a n v => some (.write a n v)
  | .remote _ _ => none
  | .reset _ => none

/-- Reset takes effect in the next step (70_reset_and_hazards.md R200, R201): the reset input is asserted with no command in
execution, or a reset that is aborting a command releases its second line. -/
def resetTakesEffect (s : State) : Prop :=
  ((∃ l, nextTurn s = .reset l) ∧ s.eng.cur = none) ∨
    (nextTurn s = .engine ∧ s.eng.cur ≠ none ∧ s.resetting ≠ none)

/-! ## The invariant -/

/-- What a micro-op does to the engine's drive (R100 to R103). -/
def Machine.Pads.after (d : Pads) : Uop → Pads
  | .rel l => d.set l .rel
  | .low l => d.set l .low
  | .smp l => d.set l .rel
  | .wait _ => d

/-- The engine's drive after micro-ops, from `d`. -/
def replay (d : Pads) (us : List Uop) : Pads := us.foldl Pads.after d

/-- The lines at a command's entry: both released for START (R130), SCL low for the others (10_state.md R25). -/
def Machine.Cmd.entryLines (c : Cmd) (d : Pads) : Prop :=
  match c with
  | .start => d = Pads.released
  | .sendByte _ => d.scl = .low
  | .rstart => d.scl = .low
  | .readWord => d.scl = .low
  | .stop => d.scl = .low

/-- The lines at a command's completion (R130, R140, R145, R150, R160). -/
def Machine.Cmd.exitLines : Cmd → Pads
  | .start => ⟨.low, .low⟩
  | .sendByte _ => ⟨.low, .low⟩
  | .rstart => ⟨.low, .low⟩
  | .readWord => ⟨.low, .rel⟩
  | .stop => ⟨.rel, .rel⟩

/-- The phase after a command's completion (10_state.md R23). -/
def Machine.Cmd.exitPhase : Cmd → Phase
  | .start => .active
  | .sendByte _ => .active
  | .rstart => .active
  | .readWord => .active
  | .stop => .idle

/-- The engine is inside the command `c`. -/
structure Running (p : Params) (c : Cmd) (e : Engine) : Prop where
  /-- `c` is legal in `phase` (R120) -/
  inPhase : e.phase = c.entryPhase
  /-- `uq = drop(upc, expand(cur))` (10_state.md R28) -/
  queue : e.uq = (expand p c).drop e.upc
  /-- a micro-op is left (10_state.md R27) -/
  notOver : e.upc < (expand p c).length
  /-- the drive is what the micro-ops so far make of the lines at entry -/
  lines : ∃ d, c.entryLines d ∧ e.drv = replay d ((expand p c).take e.upc)
  /-- READ_WORD has counted its samples (10_state.md R30) -/
  counted : c = .readWord → e.nsmp = ((expand p c).take e.upc).count (.smp .sda)
  /-- START has cleared `err` (10_state.md R26) -/
  errClear : c = .start → e.err = false
  /-- START and READ_WORD have cleared `rxv` (10_state.md R31) -/
  rxvClear : c = .start ∨ c = .readWord → e.rxv = false

/-- The invariant of the machine: 10_state.md R24, R25, R27 to R30, and 70_reset_and_hazards.md R201. -/
structure Inv (s : State) : Prop where
  /-- R27 -/
  noQueue : s.eng.cur = none → s.eng.uq = []
  /-- R24, the Idle invariant -/
  idleLines : s.eng.cur = none → s.eng.phase = .idle → s.eng.drv = Pads.released
  /-- R25, the Active invariant -/
  activeLines : s.eng.cur = none → s.eng.phase = .active → s.eng.drv.scl = .low
  /-- R27, R28 -/
  running : ∀ c, s.eng.cur = some c → s.resetting = none → Running s.cfg c s.eng
  /-- R201: a reset in progress is aborting a command, and has released its first line -/
  aborting : ∀ l, s.resetting = some l → s.eng.cur ≠ none ∧ s.eng.drv.get (otherLine l) = .rel
  /-- R29: the timer is at 0 between two steps -/
  timer : s.eng.tmr = 0
  /-- R30: `nsmp` is in 0..16 -/
  samples : s.eng.nsmp ≤ 16

/-! ## What an observer of the history knows -/

/-- What the events so far show of the engine. -/
structure Seen where
  drv : Pads
  phase : Phase
  cur : Option Cmd
  err : Bool
  rxv : Bool
  /-- the samples of the READ_WORD in progress or last completed, in time order -/
  samples : List Bool
  rx : Half
  deriving DecidableEq, Repr

/-- The number whose bits, most significant first, are given (00_scope.md R6). -/
def bitsValue (bs : List Bool) : Nat := bs.foldl (fun n b => 2 * n + b.toNat) 0

/-- R151: the low byte from the first 8 samples, the high byte from the next 8, `low | (high << 8)`. -/
def wordOfSamples (bs : List Bool) : Half := BitVec.ofNat 16 (bitsValue (bs.take 8) + 256 * bitsValue (bs.drop 8))

/-- What `hist = [Reset]` shows (10_state.md R39). -/
def Seen.initial : Seen := ⟨Pads.released, .idle, none, false, false, [], 0#16⟩

/-- What a delivered sample of SDA shows. -/
def Seen.sampled (o : Seen) (b : Bool) : Seen :=
  match o.cur with
  | some (.sendByte _) => { o with err := o.err || b }
  | some .readWord => { o with samples := o.samples ++ [b] }
  | _ => o

/-- What one more event shows. -/
def Seen.event (o : Seen) : Event → Seen
  | .drive l d => { o with drv := o.drv.set l d }
  | .sample .sda b => { o with drv := o.drv.set .sda .rel }.sampled b
  | .sample .scl _ => { o with drv := o.drv.set .scl .rel }
  | .wait _ => o
  | .accept .start => { o with cur := some .start, err := false, rxv := false }
  | .accept .readWord => { o with cur := some .readWord, rxv := false, samples := [] }
  | .accept c => { o with cur := some c }
  | .reject _ _ => o
  | .done .start => { o with cur := none, phase := .active }
  | .done .stop => { o with cur := none, phase := .idle }
  | .done .readWord => { o with cur := none, rx := wordOfSamples o.samples, rxv := true }
  | .done _ => { o with cur := none }
  | .reset => Seen.initial

/-- What a history shows. -/
def observe (hist : List Event) : Seen := hist.foldl Seen.event Seen.initial

/-- The history accounts for the engine's state: the lines, the phase, the command, `err`, `rxv`, `rx` while it is valid,
and the samples taken so far. -/
structure Explained (e : Engine) : Prop where
  drv : (observe e.hist).drv = e.drv
  phase : (observe e.hist).phase = e.phase
  cur : (observe e.hist).cur = e.cur
  err : (observe e.hist).err = e.err
  rxv : (observe e.hist).rxv = e.rxv
  rx : e.rxv = true → (observe e.hist).rx = e.rx
  nsmp : e.cur = some .readWord → (observe e.hist).samples.length = e.nsmp
  rxacc : e.cur = some .readWord → ∀ k, k < e.nsmp → (observe e.hist).samples[k]? = some (e.rxacc.getLsbD (15 - k))

/-- Every fault flag that is set has its `Reject` event in the history (60_exceptions.md R171, R178). -/
def FaultsRecorded (e : Engine) : Prop := ∀ k, e.flag k = true → ∃ w, Event.reject w k ∈ e.hist

/-- The micro-op an event records, if it records one (10_state.md R33). -/
def Machine.Event.uop : Event → Option Uop
  | .drive l .rel => some (.rel l)
  | .drive l .low => some (.low l)
  | .sample l _ => some (.smp l)
  | .wait n => some (.wait n)
  | .accept _ => none
  | .reject _ _ => none
  | .done _ => none
  | .reset => none

/-! ## The wire -/

/-- 40_line_driver.md R108: SDA goes from 1 to 0 while SCL is 1. -/
def startCondition (s t : State) : Prop :=
  s.level .sda = true ∧ t.level .sda = false ∧ s.level .scl = true ∧ t.level .scl = true

/-- 40_line_driver.md R108: SDA goes from 0 to 1 while SCL is 1. -/
def stopCondition (s t : State) : Prop :=
  s.level .sda = false ∧ t.level .sda = true ∧ s.level .scl = true ∧ t.level .scl = true

/-- 40_line_driver.md R108: SDA changes while SCL is 0. -/
def dataChange (s t : State) : Prop :=
  s.level .sda ≠ t.level .sda ∧ s.level .scl = false ∧ t.level .scl = false

/-- The remote device pulls neither line low. -/
def RemoteSilent (s : State) : Prop := s.pull = ⟨false, false⟩

/-- What the remote device and the engine do while the remote device sends the bits `bs` in one byte of a READ_WORD, each
put on SDA just before its bit cell, up to the end of the byte's settle (R150). -/
def sendingByte (bs : List Bool) : List Turn :=
  .engine :: bs.flatMap (fun b => .remote .sda (!b) :: List.replicate 7 .engine) ++ List.replicate 7 .engine

/-- The remote device sends the word `w`, low byte first, each byte MSB first (20_memory.md R56, R57). -/
def sendingWord (w : Half) : List Turn :=
  sendingByte (byteBits (w.extractLsb' 0 8)) ++ sendingByte (byteBits (w.extractLsb' 8 8))

/-! ## The command grammar (41_bus_transport.md R165) -/

/-- The commands between START and STOP. -/
def Machine.Cmd.inner : Cmd → Prop
  | .start => False
  | .sendByte _ => True
  | .rstart => True
  | .readWord => True
  | .stop => False

/-- `( START (SEND_BYTE | RSTART | READ_WORD)* STOP )*`, in which the last transaction may be unfinished. -/
inductive Grammar : List Cmd → Prop where
  | empty : Grammar []
  | unfinished (body : List Cmd) : (∀ c ∈ body, c.inner) → Grammar (.start :: body)
  | transaction (body rest : List Cmd) : (∀ c ∈ body, c.inner) → Grammar rest →
      Grammar (.start :: body ++ .stop :: rest)

/-- A host that writes each command and lets the engine take as many steps as the command has micro-ops: each command is
issued only after the one before it has completed. -/
def hostScript (p : Params) (cs : List Cmd) : List Turn :=
  cs.flatMap (fun c => .hostWrite p.engineBase 4 c.word :: List.replicate (expand p c).length .engine)

end Sys2Proof
end

