-- ==== Sys2Proof/Certificates/Slice0/Obligations.lean ====
section
/-! DEFINITION. The statements about the machine. A record update on the right of an equation is also the frame: every field
it does not name is unchanged. -/

open Sys2Proof Sys2Proof.Machine

/-! ## Encoding -/

/-- 30_encoding.md R80, R81, R85, R86: the word of every instruction decodes to it, from the table's numbering and from its
bytes (the order of a micro-op word's bytes is the model's choice, log entry 19). -/
def Obligations.DecodeOfEncodeIsInstr : Prop :=
  ∀ i : Instr,
    decodeTableWord (8 * encodedBytes i) (encodeNat i) = some i ∧ decodeBytes (encode i) = .ok i

/-- 30_encoding.md R83: when a command word is illegal, every other word is one of the five commands, and what writing an
illegal word while not BUSY does. -/
def Obligations.IllegalWords : Prop :=
  ∀ w : Word,
    ((∃ x, decodeCmd w = .error x) ↔
      w.toNat / 2 ^ 16 ≠ 0 ∨
      w.toNat / 2 ^ 8 % 16 ≠ 0 ∨
      (w.toNat / 2 ^ 12 % 16 = 0 ∨ 6 ≤ w.toNat / 2 ^ 12 % 16) ∨
      (w.toNat / 2 ^ 12 % 16 ∈ [1, 3, 4, 5] ∧ w.toNat % 256 ≠ 0)) ∧
    ((∃ x, decodeCmd w = .error x) ∨ ∃ c : Cmd, decodeCmd w = .ok c.toInstr) ∧
    ∀ (s : State) (x : DecodeError) (rest : List Turn), decodeCmd w = .error x → s.eng.cur = none →
      s.agenda = .hostWrite s.cfg.engineBase 4 w :: rest →
      step s = .next { s with
        agenda := rest
        eng := { s.eng with ill := true, hist := s.eng.hist ++ [.reject w .ill] } }

/-- 30_encoding.md R81, R84, R86: each instruction has one word, and no other word decodes to it. -/
def Obligations.OneWordPerInstr : Prop :=
  (∀ (w : Word) (i : Instr), decodeCmd w = .ok i ↔ i.isCommand = true ∧ w.toNat = encodeNat i) ∧
  (∀ (w : Half) (i : Instr), decodeUop w = .ok i ↔ i.isCommand = false ∧ w.toNat = encodeNat i)

/-- 30_encoding.md R81, R83, R86: words the spec prints. -/
def Obligations.PrintedWordsDecode : Prop :=
  decodeTableWord 32 0x00001000 = some .start ∧
  decodeTableWord 32 0x000020A5 = some (.sendByte 0xA5#8) ∧
  decodeTableWord 32 0x00003000 = some .rstart ∧
  decodeTableWord 32 0x00004000 = some .readWord ∧
  decodeTableWord 32 0x00005000 = some .stop ∧
  decodeTableWord 16 0x0000 = some (.rel .scl) ∧
  decodeTableWord 16 0x4001 = some (.low .sda) ∧
  decodeTableWord 16 0x8001 = some (.smp .sda) ∧
  decodeTableWord 16 0xC05A = some (.wait ⟨90, by decide⟩) ∧
  decodeTableWord 32 0x00001001 = none ∧
  decodeTableWord 32 0x00002100 = none ∧
  decodeTableWord 16 0xC000 = none ∧
  decodeTableWord 16 0x0002 = none

/-! ## The Line Driver -/

/-- 40_line_driver.md R105: the level of a line. -/
def Obligations.LineLevel : Prop :=
  ∀ (s : State) (l : Line),
    (s.level l = false ↔ s.eng.drv.get l = .low ∨ s.pull.get l = true) ∧
    (s.level l = true ↔ s.eng.drv.get l = .rel ∧ s.pull.get l = false)

/-- 40_line_driver.md R100: REL's words; REL always completes; it writes the drive of its line and `hist`, and nothing
else. -/
def Obligations.RelCompletes : Prop :=
  (decodeUop 0x0000#16 = .ok (.rel .scl) ∧ decodeUop 0x0001#16 = .ok (.rel .sda)) ∧
  ∀ s : State,
    exec (.rel .scl) s = .next { s with
      eng := { s.eng with drv := ⟨.rel, s.eng.drv.sda⟩, hist := s.eng.hist ++ [.drive .scl .rel] } } ∧
    exec (.rel .sda) s = .next { s with
      eng := { s.eng with drv := ⟨s.eng.drv.scl, .rel⟩, hist := s.eng.hist ++ [.drive .sda .rel] } } ∧
    ∀ (l : Line) (t : State), exec (.rel l) s = .next t → t.level l = !s.pull.get l

/-- 40_line_driver.md R101: LOW's words; LOW always completes; its line is then at level 0 whatever the remote device
does. -/
def Obligations.LowCompletes : Prop :=
  (decodeUop 0x4000#16 = .ok (.low .scl) ∧ decodeUop 0x4001#16 = .ok (.low .sda)) ∧
  ∀ s : State,
    exec (.low .scl) s = .next { s with
      eng := { s.eng with drv := ⟨.low, s.eng.drv.sda⟩, hist := s.eng.hist ++ [.drive .scl .low] } } ∧
    exec (.low .sda) s = .next { s with
      eng := { s.eng with drv := ⟨s.eng.drv.scl, .low⟩, hist := s.eng.hist ++ [.drive .sda .low] } } ∧
    ∀ (l : Line) (t : State), exec (.low l) s = .next t → t.level l = false

/-- 40_line_driver.md R102 and the delivery of 41_bus_transport.md R140, R150: SMP always completes. The bit is the line's
level if the line was released, and a free value if the engine was driving it low. SMP SCL is delivered to no command. -/
def Obligations.SmpCompletes : Prop :=
  ∀ (s : State) (l : Line) (b : Bool),
    (s.eng.drv.get l = .rel → b = !s.pull.get l) → (s.eng.drv.get l = .low → b = Config.freeBit s.draws) →
    (l = .scl → exec (.smp l) s = .next { s with
      draws := s.draws + 1
      eng := { s.eng with drv := ⟨.rel, s.eng.drv.sda⟩, hist := s.eng.hist ++ [.sample .scl b] } }) ∧
    (l = .sda → ∀ v, s.eng.cur = some (.sendByte v) → exec (.smp l) s = .next { s with
      draws := s.draws + 1
      eng := { s.eng with
        drv := ⟨s.eng.drv.scl, .rel⟩
        hist := s.eng.hist ++ [.sample .sda b]
        err := if b then true else s.eng.err } }) ∧
    (l = .sda → s.eng.cur = some .readWord → s.eng.nsmp < 16 → ∃ acc : Half,
      (∀ i, i < 16 → acc.getLsbD i = if i = 15 - s.eng.nsmp then b else s.eng.rxacc.getLsbD i) ∧
      exec (.smp l) s = .next { s with
        draws := s.draws + 1
        eng := { s.eng with
          drv := ⟨s.eng.drv.scl, .rel⟩
          hist := s.eng.hist ++ [.sample .sda b]
          rxacc := acc
          nsmp := s.eng.nsmp + 1 } }) ∧
    (l = .sda → (∀ v, s.eng.cur ≠ some (.sendByte v)) → s.eng.cur ≠ some .readWord → exec (.smp l) s = .next { s with
      draws := s.draws + 1
      eng := { s.eng with drv := ⟨s.eng.drv.scl, .rel⟩, hist := s.eng.hist ++ [.sample .sda b] } })

/-- 40_line_driver.md R103: WAIT always completes: the timer runs down to 0, `Wait(n)` is recorded, the lines do not move. -/
def Obligations.WaitCompletes : Prop :=
  ∀ (s : State) (n : Delay),
    exec (.wait n) s = .next { s with eng := { s.eng with tmr := 0, hist := s.eng.hist ++ [.wait n] } }

/-! ## The commands -/

/-- 41_bus_transport.md R130: START completes its acceptance in Idle while not BUSY. -/
def Obligations.StartCompletes : Prop :=
  ∀ s : State, s.eng.cur = none → s.eng.phase = .idle →
    exec .start s = .next { s with
      eng := { s.eng with
        err := false
        rxv := false
        cur := some .start
        upc := 0
        uq := [.rel .sda, .rel .scl, .wait s.cfg.nStartSettle, .low .sda, .wait s.cfg.nStartHold, .low .scl,
          .wait s.cfg.nStartTail]
        hist := s.eng.hist ++ [.accept .start] } }

/-- 41_bus_transport.md R140, R123: SEND_BYTE completes its acceptance in Active while not BUSY. -/
def Obligations.SendByteCompletes : Prop :=
  ∀ (s : State) (v : Byte), s.eng.cur = none → s.eng.phase = .active →
    exec (.sendByte v) s = .next { s with
      eng := { s.eng with
        cur := some (.sendByte v)
        upc := 0
        uq := [7, 6, 5, 4, 3, 2, 1, 0].flatMap (fun i =>
            [if v.getLsbD i = false then .low .sda else .rel .sda, .wait s.cfg.nBitSetup, .rel .scl, .wait s.cfg.nBitHigh,
              .low .scl, .wait s.cfg.nBitLow]) ++
          [.rel .sda, .wait s.cfg.nAckSetup, .rel .scl, .wait s.cfg.nAckWin, .smp .sda, .low .scl, .low .sda,
            .wait s.cfg.nAckHold]
        hist := s.eng.hist ++ [.accept (.sendByte v)] } }

/-- 41_bus_transport.md R145: RSTART completes its acceptance in Active while not BUSY. -/
def Obligations.RstartCompletes : Prop :=
  ∀ s : State, s.eng.cur = none → s.eng.phase = .active →
    exec .rstart s = .next { s with
      eng := { s.eng with
        cur := some .rstart
        upc := 0
        uq := [.rel .sda, .wait s.cfg.nRsRel, .rel .scl, .wait s.cfg.nRsHigh, .low .sda, .wait s.cfg.nRsHold, .low .scl,
          .wait s.cfg.nRsTail]
        hist := s.eng.hist ++ [.accept .rstart] } }

/-- 41_bus_transport.md R150, R123: READ_WORD completes its acceptance in Active while not BUSY. -/
def Obligations.ReadWordCompletes : Prop :=
  ∀ s : State, s.eng.cur = none → s.eng.phase = .active →
    exec .readWord s = .next { s with
      eng := { s.eng with
        rxv := false
        nsmp := 0
        cur := some .readWord
        upc := 0
        uq :=
          let cell : List Uop := [.wait s.cfg.nBitSetup, .rel .scl, .wait s.cfg.nRdPre, .smp .sda, .wait s.cfg.nRdPost,
            .low .scl, .wait s.cfg.nBitLow]
          let eight := cell ++ cell ++ cell ++ cell ++ cell ++ cell ++ cell ++ cell
          let clock : List Uop := [.wait s.cfg.nBitSetup, .rel .scl, .wait s.cfg.nBitHigh, .low .scl, .wait s.cfg.nBitLow]
          (.rel .sda :: eight) ++ (.low .sda :: clock) ++ [.wait s.cfg.nRdAckSettle] ++
            (.rel .sda :: eight) ++ (.rel .sda :: clock) ++ [.wait s.cfg.nRdNackSettle]
        hist := s.eng.hist ++ [.accept .readWord] } }

/-- 41_bus_transport.md R160: STOP completes its acceptance in Active while not BUSY. -/
def Obligations.StopCompletes : Prop :=
  ∀ s : State, s.eng.cur = none → s.eng.phase = .active →
    exec .stop s = .next { s with
      eng := { s.eng with
        cur := some .stop
        upc := 0
        uq := [.rel .scl, .wait s.cfg.nStopHold, .rel .sda, .wait s.cfg.nStopTail]
        hist := s.eng.hist ++ [.accept .stop] } }

/-- 41_bus_transport.md R120, 60_exceptions.md R172 to R175: what a write of any word to `CMD` does. -/
def Obligations.CommandWrite : Prop :=
  ∀ (s : State) (w : Word) (rest : List Turn), s.agenda = .hostWrite s.cfg.engineBase 4 w :: rest →
    (s.eng.cur ≠ none → step s = .next { s with
      agenda := rest
      eng := { s.eng with ovr := true, hist := s.eng.hist ++ [.reject w .ovr] } }) ∧
    (s.eng.cur = none → ∀ x, decodeCmd w = .error x → step s = .next { s with
      agenda := rest
      eng := { s.eng with ill := true, hist := s.eng.hist ++ [.reject w .ill] } }) ∧
    (s.eng.cur = none → ∀ c : Cmd, decodeCmd w = .ok c.toInstr →
      (c = .start ∧ s.eng.phase ≠ .idle ∨ c ≠ .start ∧ s.eng.phase ≠ .active) → step s = .next { s with
        agenda := rest
        eng := { s.eng with seq := true, hist := s.eng.hist ++ [.reject w .seq] } }) ∧
    (s.eng.cur = none → ∀ c : Cmd, decodeCmd w = .ok c.toInstr →
      ¬(c = .start ∧ s.eng.phase ≠ .idle ∨ c ≠ .start ∧ s.eng.phase ≠ .active) → step s = .next { s with
        agenda := rest
        eng := { s.eng.acceptActions c with
          cur := some c, upc := 0, uq := expand s.cfg c, hist := s.eng.hist ++ [.accept c] } }) ∧
    ∀ i, decodeCmd w = .ok i → ∃ c : Cmd, i = c.toInstr

/-- 20_memory.md R60: a `STATUS` read right after an accepted `CMD` write sees `BUSY = 1`. -/
def Obligations.AcceptanceVisibleAtOnce : Prop :=
  ∀ (s : State) (c : Cmd) (rest : List Turn), s.eng.cur = none → s.eng.phase = c.entryPhase →
    s.agenda = .hostWrite s.cfg.engineBase 4 c.word :: .hostRead (s.cfg.engineBase + 4) 4 :: rest →
    ∃ (t : State) (w : Word), runSteps 2 s = .next t ∧ t.replies = s.replies ++ [w] ∧ w.getLsbD 0 = true ∧
      t.eng.cur = some c

/-- 20_memory.md R60, R61: a command in execution stops being so only at its completion, with its `Done` event, or when reset
takes effect; so between a state with a command in execution and a later one in which a `STATUS` read returns `BUSY = 0`, the
history has that event or `Reset`. -/
def Obligations.BusyClearsOnlyAtCompletion : Prop :=
  (∀ (s t : State) (c : Cmd), step s = .next t → s.eng.cur = some c → t.eng.cur ≠ some c →
    t.eng.cur = none ∧
    ((nextTurn s = .engine ∧ s.resetting = none ∧ (∃ u, s.eng.uq = [u]) ∧
        ∃ ev, t.eng.hist = s.eng.hist ++ [ev, .done c]) ∨
      resetTakesEffect s)) ∧
  ∀ (k : Nat) (s t : State) (c : Cmd), s.eng.cur = some c → runSteps k s = .next t →
    (t.regValue .status).getLsbD 0 = false →
    ∃ evs, t.eng.hist = s.eng.hist ++ evs ∧ (.done c ∈ evs ∨ .reset ∈ evs)

/-! ## The host's program -/

/-- 30_encoding.md R87, R88: what each line of a host program does. A line is the access it stands for; `RDSTATUS` and `RDRX`
give their variables values; `WAITIDLE` reads `STATUS` again and again, and is done when bit 0 is 0. -/
def Obligations.HostLinesMean : Prop :=
  ∀ (s : State) (rest : List HostLine) (more : List Turn), s.agenda = .host :: more →
    (∀ c : Cmd, s.program = .command c :: rest → step s =
      step { s with agenda := .hostWrite s.cfg.engineBase 4 (commandWord c.toInstr) :: more, program := rest }) ∧
    (∀ w : Word, s.program = .raw w :: rest → step s =
      step { s with agenda := .hostWrite s.cfg.engineBase 4 w :: more, program := rest }) ∧
    (s.program = .waitIdle :: rest → step s = .next { s with
      agenda := more
      replies := s.replies ++ [s.eng.statusWord]
      draws := s.draws + 1
      program := if s.eng.statusWord.getLsbD 0 = true then .waitIdle :: rest else rest }) ∧
    (s.program = .rdStatus :: rest → step s = .next { s with
      agenda := more
      replies := s.replies ++ [s.eng.statusWord]
      draws := s.draws + 1
      program := rest
      results := s.results ++ [.status s.eng.statusWord] }) ∧
    (s.program = .rdRx :: rest → ∃ w : Word, step s = .next { s with
        agenda := more
        replies := s.replies ++ [w]
        draws := s.draws + 1
        program := rest
        results := s.results ++ [.rx (w.extractLsb' 0 16)] } ∧
      (s.eng.rxv = true → w = s.eng.rx.setWidth 32)) ∧
    (∀ m : Word, s.program = .clrFault m :: rest → step s = .next { s with
      agenda := more
      program := rest
      eng := { s.eng with
        ill := if m.getLsbD 4 then false else s.eng.ill
        seq := if m.getLsbD 5 then false else s.eng.seq
        ovr := if m.getLsbD 6 then false else s.eng.ovr } }) ∧
    (s.program = [] → step s = .next { s with agenda := more }) ∧
    ∀ c : Cmd, xfer c = [.command c, .waitIdle]

/-- 30_encoding.md R88, 20_memory.md R61: `WAITIDLE` while a command is in execution, under any interleaving of polls and engine
steps. As long as the engine has taken fewer steps than the command has micro-ops left, every poll reads `BUSY = 1` and the
line is not done; the first poll after the last step finds the command completed, and the line is done. -/
def Obligations.WaitIdleWaitsForCompletion : Prop :=
  ∀ (s : State) (c : Cmd) (rest : List HostLine) (sched : List Turn), Inv s → s.eng.cur = some c → s.resetting = none →
    s.program = .waitIdle :: rest → (∀ a ∈ sched, a = .engine ∨ a = .host) →
    (s.agenda = sched → sched.count .engine < s.eng.uq.length →
      ∃ t, runSteps sched.length s = .next t ∧ t.program = .waitIdle :: rest ∧ t.eng.cur = some c ∧
        t.replies.length = s.replies.length + sched.count .host ∧
        ∀ w ∈ t.replies.drop s.replies.length, w.getLsbD 0 = true) ∧
    (s.agenda = sched ++ [.engine, .host] → sched.count .engine + 1 = s.eng.uq.length →
      ∃ (t : State) (evs : List Event), runSteps (sched.length + 2) s = .next t ∧ t.program = rest ∧ t.eng.cur = none ∧
        t.eng.hist = s.eng.hist ++ evs ++ [.done c] ∧ evs.filterMap Event.uop = s.eng.uq ∧
        t.eng.drv = c.exitLines ∧ t.eng.phase = c.exitPhase)

/-! ## The step -/

/-- A step whose next action writes to `CMD` a word that decodes to `i` is `exec i`, in the state without that action. -/
def Obligations.StepRunsWrittenCommand : Prop :=
  ∀ (s : State) (w : Word) (i : Instr) (rest : List Turn),
    s.agenda = .hostWrite s.cfg.engineBase 4 w :: rest → decodeCmd w = .ok i →
    step s = exec i { s with agenda := rest }

/-- 41_bus_transport.md R121: a step of the engine is `exec` of the head of `uq`, in the state with the head removed and
`upc` advanced; when none is left, the command completes in the same step. `rxacc` is a free value from READ_WORD's
completion on (log entry 2). A reset in progress has aborted the command: that step is in ResetFromAnyState. -/
def Obligations.StepRunsHeadMicroOp : Prop :=
  ∀ (s : State) (c : Cmd) (u : Uop) (rest : List Uop),
    (s.agenda = [] ∨ ∃ more, s.agenda = .engine :: more) → s.eng.cur = some c → s.resetting = none →
      s.eng.uq = u :: rest →
    ∃ t : State,
      exec u.toInstr { s with
        agenda := s.agenda.tail, eng := { s.eng with uq := rest, upc := s.eng.upc + 1 } } = .next t ∧
      (rest ≠ [] → step s = .next t) ∧
      (rest = [] → step s = .next { t with
        draws := t.draws + 1
        eng := { t.eng with
          cur := none
          phase := if c = .start then .active else if c = .stop then .idle else t.eng.phase
          rx := if c = .readWord then assembleWord t.eng.rxacc else t.eng.rx
          rxv := if c = .readWord then true else t.eng.rxv
          rxacc := if c = .readWord then Config.freeRxacc t.draws else t.eng.rxacc
          hist := t.eng.hist ++ [.done c] } })

/-- 60_exceptions.md R187: with no command in execution the engine executes nothing and holds `drv`. -/
def Obligations.IdleEngineDoesNothing : Prop :=
  ∀ s : State, (s.agenda = [] ∨ ∃ more, s.agenda = .engine :: more) → s.eng.cur = none →
    step s = .next { s with agenda := s.agenda.tail }

/-- 00_scope.md R11, 10_state.md R34, 40_line_driver.md R105, R106: what a step does outside the engine. The parameters never
change; the remote device's action sets its drive of its line and does nothing else, and nothing else changes that drive; only
a host read returns a reply, and only the host's turn changes its program and its results. -/
def Obligations.StepOutsideEngine : Prop :=
  ∀ s t : State, step s = .next t →
    t.cfg = s.cfg ∧ t.agenda = s.agenda.tail ∧
    (∀ l x, nextTurn s = .remote l x → t = { s with
      agenda := s.agenda.tail
      pull := match l with
        | .scl => ⟨x, s.pull.sda⟩
        | .sda => ⟨s.pull.scl, x⟩ }) ∧
    (t.pull ≠ s.pull → ∃ l x, nextTurn s = .remote l x) ∧
    (t.replies ≠ s.replies →
      ∃ a n w, nextAccess s = some (.read a n) ∧ t.replies = s.replies ++ [w] ∧ t.eng = s.eng) ∧
    (t.program ≠ s.program ∨ t.results ≠ s.results → nextTurn s = .host)

/-- 60_exceptions.md R176, 20_memory.md R52: no instruction stops the machine, and from a state that meets the invariant a
step stops only at a host access outside the register block or not admitted. -/
def Obligations.OnlyBadAccessesStop : Prop :=
  (∀ (i : Instr) (s : State), ∃ t, exec i s = .next t) ∧
  ∀ s : State, Inv s → (¬∃ t, step s = .next t) →
    ∃ a n, (nextTurn s = .hostRead a n ∨ ∃ v, nextTurn s = .hostWrite a n v) ∧
      ¬(n = 4 ∧ ∃ k, k < 4 ∧ a = s.cfg.engineBase + 4 * k)

/-! ## The register block -/

/-- 10_state.md R35: a read of STATUS, a write of STATUS, and its reset value. -/
def Obligations.StatusRegister : Prop :=
  (∀ (s : State) (rest : List Turn), s.agenda = .hostRead (s.cfg.engineBase + 4) 4 :: rest →
    ∃ w : Word, step s = .next { s with agenda := rest, replies := s.replies ++ [w], draws := s.draws + 1 } ∧
      (w.getLsbD 0 = true ↔ s.eng.cur ≠ none) ∧
      (w.getLsbD 1 = true ↔ s.eng.phase = .active) ∧
      (w.getLsbD 2 = true ↔ s.eng.err = true) ∧
      (w.getLsbD 3 = true ↔ s.eng.rxv = true) ∧
      (w.getLsbD 4 = true ↔ s.eng.ill = true) ∧
      (w.getLsbD 5 = true ↔ s.eng.seq = true) ∧
      (w.getLsbD 6 = true ↔ s.eng.ovr = true) ∧
      (w.getLsbD 7 = true ↔ s.eng.drv.scl = .low) ∧
      (w.getLsbD 8 = true ↔ s.eng.drv.sda = .low) ∧
      ∀ i, 9 ≤ i → w.getLsbD i = false) ∧
  (∀ (s : State) (v : Word) (rest : List Turn), s.agenda = .hostWrite (s.cfg.engineBase + 4) 4 v :: rest →
    step s = .next { s with
      agenda := rest
      eng := { s.eng with
        ill := if v.getLsbD 4 then false else s.eng.ill
        seq := if v.getLsbD 5 then false else s.eng.seq
        ovr := if v.getLsbD 6 then false else s.eng.ovr } }) ∧
  ∀ (p : Params) (agenda : List Turn), (State.resetWith p agenda).eng.statusWord = 0#32

/-- 10_state.md R36, R37, R38: reads of `CMD`, `RXDATA` and the reserved offset, and the writes that do nothing. While
`rxv = 0` a read of `RXDATA` returns a free value in bits 15:0. -/
def Obligations.CmdRxdataReserved : Prop :=
  ∀ (s : State) (rest : List Turn),
    (s.agenda = .hostRead s.cfg.engineBase 4 :: rest →
      step s = .next { s with agenda := rest, replies := s.replies ++ [0#32], draws := s.draws + 1 }) ∧
    (s.agenda = .hostRead (s.cfg.engineBase + 8) 4 :: rest →
      ∃ w : Word, step s = .next { s with agenda := rest, replies := s.replies ++ [w], draws := s.draws + 1 } ∧
        (s.eng.rxv = true → w.extractLsb' 0 16 = s.eng.rx) ∧
        (s.eng.rxv = false → w.extractLsb' 0 16 = Config.freeRx s.draws) ∧
        w.extractLsb' 16 16 = 0#16) ∧
    (s.agenda = .hostRead (s.cfg.engineBase + 12) 4 :: rest →
      step s = .next { s with agenda := rest, replies := s.replies ++ [0#32], draws := s.draws + 1 }) ∧
    ∀ v : Word, (s.agenda = .hostWrite (s.cfg.engineBase + 8) 4 v :: rest ∨
        s.agenda = .hostWrite (s.cfg.engineBase + 12) 4 v :: rest) →
      step s = .next { s with agenda := rest }

/-- 20_memory.md R52: inside the register block, a 32-bit access at an offset that is a multiple of 4 is admitted, and
every other access is refused. -/
def Obligations.AccessAdmission : Prop :=
  ∀ (s : State) (off bytes : Nat) (v : Word) (rest : List Turn), off < 16 →
    (s.agenda = .hostRead (s.cfg.engineBase + off) bytes :: rest ∨
      s.agenda = .hostWrite (s.cfg.engineBase + off) bytes v :: rest) →
    (bytes = 4 ∧ off % 4 = 0 → ∃ t, step s = .next t) ∧
    (¬(bytes = 4 ∧ off % 4 = 0) → step s = .refused .accessNotAdmitted)

/-- The model's own choice (log entry 8): an access that starts outside the register block stops the machine. -/
def Obligations.AccessOutsideBlockFaults : Prop :=
  ∀ (s : State) (a bytes : Nat) (v : Word) (rest : List Turn),
    (a < s.cfg.engineBase ∨ s.cfg.engineBase + 16 ≤ a) →
    (s.agenda = .hostRead a bytes :: rest ∨ s.agenda = .hostWrite a bytes v :: rest) →
    step s = .fault .noSuchAddress

/-- 20_memory.md R63, 10_state.md R35: no host access changes the command in execution or anything it works on; a host
write to `CMD` leaves OVR and its `Reject` event. -/
def Obligations.HostCannotDisturbCommand : Prop :=
  ∀ s t : State, s.eng.cur ≠ none → step s = .next t →
    ((∃ a n, nextAccess s = some (.read a n)) → t.eng = s.eng ∧ t.resetting = s.resetting) ∧
    ∀ a n w, nextAccess s = some (.write a n w) →
      t.eng = { s.eng with ill := t.eng.ill, seq := t.eng.seq, ovr := t.eng.ovr, hist := t.eng.hist } ∧
      t.resetting = s.resetting ∧
      (a = s.cfg.engineBase → t.eng.hist = s.eng.hist ++ [.reject w .ovr] ∧ t.eng.ovr = true ∧
        t.eng.ill = s.eng.ill ∧ t.eng.seq = s.eng.seq) ∧
      (a ≠ s.cfg.engineBase → t.eng.hist = s.eng.hist)

/-! ## Flags -/

/-- 10_state.md R32: what sets a fault flag, what clears it, its reset value. -/
def Obligations.FaultFlagWriters : Prop :=
  ∀ (s t : State) (k : RejectKind), step s = .next t →
    (s.eng.flag k = false → t.eng.flag k = true →
      ∃ w, nextAccess s = some (.write s.cfg.engineBase 4 w) ∧ t.eng.hist = s.eng.hist ++ [.reject w k]) ∧
    (s.eng.flag k = true → t.eng.flag k = false →
      (∃ v, nextAccess s = some (.write (s.cfg.engineBase + 4) 4 v) ∧
        v.getLsbD (match k with | .ill => 4 | .seq => 5 | .ovr => 6) = true) ∨
      resetTakesEffect s) ∧
    (resetTakesEffect s → t.eng.flag k = false)

/-- 10_state.md R26: the writers of the Transfer Error Flag. -/
def Obligations.ErrorFlagWriters : Prop :=
  ∀ s t : State, step s = .next t →
    (s.eng.err = false → t.eng.err = true →
      ∃ v rest more, nextTurn s = .engine ∧ s.eng.cur = some (.sendByte v) ∧ s.eng.uq = .smp .sda :: rest ∧
        t.eng.hist = s.eng.hist ++ .sample .sda true :: more) ∧
    (s.eng.err = true → t.eng.err = false →
      (nextAccess s = some (.write s.cfg.engineBase 4 0x1000#32) ∧ s.eng.cur = none ∧ t.eng.cur = some .start) ∨
      resetTakesEffect s) ∧
    (resetTakesEffect s → t.eng.err = false)

/-- 10_state.md R23: a completed START sets Active, a completed STOP sets Idle, reset sets Idle, and nothing else changes
`phase`. -/
def Obligations.PhaseWriters : Prop :=
  ∀ s t : State, step s = .next t →
    (nextTurn s = .engine → s.resetting = none → s.eng.cur = some .start → t.eng.cur = none → t.eng.phase = .active) ∧
    (nextTurn s = .engine → s.eng.cur = some .stop → t.eng.cur = none → t.eng.phase = .idle) ∧
    (resetTakesEffect s → t.eng.phase = .idle) ∧
    (t.eng.phase ≠ s.eng.phase →
      (nextTurn s = .engine ∧ t.eng.cur = none ∧ (s.eng.cur = some .start ∨ s.eng.cur = some .stop)) ∨
      resetTakesEffect s)

/-- 10_state.md R31: the writers of `rx` and `rxv`. -/
def Obligations.ReadResultWriters : Prop :=
  ∀ s t : State, step s = .next t →
    (t.eng.rx ≠ s.eng.rx ∨ (s.eng.rxv = false ∧ t.eng.rxv = true) →
      (nextTurn s = .engine ∧ s.eng.cur = some .readWord ∧ t.eng.cur = none) ∨ resetTakesEffect s) ∧
    (s.eng.rxv = true → t.eng.rxv = false →
      (s.eng.cur = none ∧ (t.eng.cur = some .start ∨ t.eng.cur = some .readWord) ∧
        ∃ w, nextAccess s = some (.write s.cfg.engineBase 4 w)) ∨
      resetTakesEffect s) ∧
    (resetTakesEffect s → t.eng.rxv = false)

/-! ## Reset -/

/-- 10_state.md R39: the state after reset. A read of `RXDATA` returns a free value. -/
def Obligations.ResetStateValues : Prop :=
  ∀ (p : Params) (agenda : List Turn),
    (State.resetWith p agenda).eng.drv.scl = .rel ∧ (State.resetWith p agenda).eng.drv.sda = .rel ∧
    (State.resetWith p agenda).eng.phase = .idle ∧ (State.resetWith p agenda).eng.err = false ∧
    (State.resetWith p agenda).eng.cur = none ∧ (State.resetWith p agenda).eng.uq = [] ∧
    (State.resetWith p agenda).eng.upc = 0 ∧ (State.resetWith p agenda).eng.tmr = 0 ∧
    (State.resetWith p agenda).eng.nsmp = 0 ∧ (State.resetWith p agenda).eng.rxv = false ∧
    (State.resetWith p agenda).eng.ill = false ∧ (State.resetWith p agenda).eng.seq = false ∧
    (State.resetWith p agenda).eng.ovr = false ∧ (State.resetWith p agenda).eng.hist = [.reset] ∧
    (State.resetWith p agenda).regValue .status = 0#32 ∧
    (State.resetWith p agenda).regValue .rxdata =
      (Config.freeRx (State.resetWith p agenda).draws).setWidth 32 ∧
    State.reset = State.resetWith defaultParams []

/-- 70_reset_and_hazards.md R200, R201: the reset input, from any state. With no command in execution reset takes effect in one
step. With one, the first line is released, other agents' actions may follow, and the engine's next step releases the other
line and reset takes effect. That the history is kept, that no `Drive` event is appended when no command is in execution, and
that the rest of the state keeps its value until the second release, is the model's reading (log entry 6); that asserting the
input again meanwhile does nothing is its choice (log entry 20). -/
def Obligations.ResetFromAnyState : Prop :=
  (∀ s : State, resetTakesEffect s →
    ∃ (t : State) (evs : List Event), step s = .next t ∧
      t.eng.drv = ⟨.rel, .rel⟩ ∧ t.eng.phase = .idle ∧ t.eng.err = false ∧ t.eng.cur = none ∧ t.eng.uq = [] ∧
      t.eng.upc = 0 ∧ t.eng.tmr = 0 ∧ t.eng.nsmp = 0 ∧ t.eng.rxv = false ∧ t.eng.ill = false ∧ t.eng.seq = false ∧
      t.eng.ovr = false ∧ t.eng.statusWord = 0#32 ∧
      t.eng.rx = Config.freeRx s.draws ∧ t.eng.rxacc = Config.freeRxacc s.draws ∧
      t.eng.hist = s.eng.hist ++ evs ++ [.reset] ∧ (s.eng.cur = none → evs = []) ∧
      (∀ l, s.eng.cur ≠ none → s.resetting = some l → evs = [.drive l .rel]) ∧
      t.resetting = none ∧ t.cfg = s.cfg ∧ t.pull = s.pull ∧ t.agenda = s.agenda.tail ∧ t.replies = s.replies ∧
      t.program = s.program ∧ t.results = s.results) ∧
  ∀ (s : State) (first : Line) (rest : List Turn), s.agenda = .reset first :: rest → s.eng.cur ≠ none →
    (s.resetting = none → step s = .next { s with
      agenda := rest
      eng := { s.eng with
        drv := match first with
          | .scl => ⟨.rel, s.eng.drv.sda⟩
          | .sda => ⟨s.eng.drv.scl, .rel⟩
        hist := s.eng.hist ++ [.drive first .rel] }
      resetting := some (match first with
        | .scl => .sda
        | .sda => .scl) }) ∧
    (s.resetting ≠ none → step s = .next { s with agenda := rest })

/-- 70_reset_and_hazards.md R201: what the two releases of a reset that aborts a command do on the wire, the remote device
being silent. A stop condition appears at the release of SDA exactly when the engine drove SDA low and SCL is released by then:
because SCL was released first, or because it was released already. If SDA is released while SCL is low, SDA rises as a data
change. No start condition appears. That SDA and SCL are as they were until each is released, in two steps, is the model's
reading (log entry 6). -/
def Obligations.ResetReleaseOrder : Prop :=
  ∀ (s : State) (first : Line) (rest : List Turn), s.eng.cur ≠ none → s.resetting = none → RemoteSilent s →
    s.agenda = .reset first :: .engine :: rest →
    ∃ t u : State, step s = .next t ∧ step t = .next u ∧
      u.eng.cur = none ∧ u.eng.drv = ⟨.rel, .rel⟩ ∧ u.resetting = none ∧
      (stopCondition s t ↔ first = .sda ∧ s.eng.drv = ⟨.rel, .low⟩) ∧
      (stopCondition t u ↔ first = .scl ∧ s.eng.drv.sda = .low) ∧
      (dataChange s t ↔ first = .sda ∧ s.eng.drv = ⟨.low, .low⟩) ∧
      ¬dataChange t u ∧ ¬startCondition s t ∧ ¬startCondition t u

/-- The reset state meets the invariant, and its history accounts for it. -/
def Obligations.ResetMeetsInvariant : Prop :=
  ∀ (p : Params) (agenda : List Turn),
    Inv (State.resetWith p agenda) ∧ Explained (State.resetWith p agenda).eng ∧
    FaultsRecorded (State.resetWith p agenda).eng

/-! ## Invariants -/

/-- Every step keeps the invariant: 10_state.md R24, R25, R27 to R30, 70_reset_and_hazards.md R201. -/
def Obligations.StepKeepsInvariant : Prop :=
  ∀ s t : State, Inv s → step s = .next t → Inv t

/-- 10_state.md R24: in every reachable state, Idle with no command in execution means both lines released. -/
def Obligations.IdleLinesReleased : Prop :=
  ∀ s : State, Reachable s → s.eng.phase = .idle → s.eng.cur = none → s.eng.drv.scl = .rel ∧ s.eng.drv.sda = .rel

/-- 10_state.md R25: in every reachable state, Active with no command in execution means SCL low; and each command leaves
the lines and the phase as its rule says (R25; R23; 41_bus_transport.md R130, R140, R145, R150, R160), from every state that
meets the invariant. -/
def Obligations.ActiveClockLow : Prop :=
  (∀ s : State, Reachable s → s.eng.phase = .active → s.eng.cur = none → s.eng.drv.scl = .low) ∧
  ∀ (s t : State) (c : Cmd), Inv s → s.eng.cur = some c → s.resetting = none → nextTurn s = .engine → step s = .next t →
    t.eng.cur = none →
    t.eng.drv = c.exitLines ∧ t.eng.phase = c.exitPhase

/-- 10_state.md R33: the history accounts for the lines, the phase, the command in execution, `err`, `rxv`, the result and
the samples, and every step keeps it so. -/
def Obligations.HistoryExplainsState : Prop :=
  ∀ s t : State, Inv s → Explained s.eng → step s = .next t → Explained t.eng

/-- 60_exceptions.md R171, R178: every step keeps a `Reject` event for every fault flag that is set; a history without one
means that no fault flag is set. -/
def Obligations.FaultFlagsRecorded : Prop :=
  (∀ s t : State, FaultsRecorded s.eng → step s = .next t → FaultsRecorded t.eng) ∧
  ∀ s : State, Reachable s → NoReject s.eng.hist → s.eng.ill = false ∧ s.eng.seq = false ∧ s.eng.ovr = false

/-! ## Whole commands -/

/-- 41_bus_transport.md R121, R124: a command in execution runs to completion, whatever the host and the remote device do
in between, if no reset and no access that stops the machine comes; the micro-ops recorded on the way are its own, in
order. -/
def Obligations.CommandRunsToCompletion : Prop :=
  ∀ (s : State) (c : Cmd), Inv s → s.eng.cur = some c → s.resetting = none →
    (∀ a ∈ s.agenda, (∀ l, a ≠ .reset l) ∧
      (∀ x n, a = .hostRead x n → ∃ r, locate s.cfg x n = .reg r) ∧
      (∀ x n v, a = .hostWrite x n v → ∃ r, locate s.cfg x n = .reg r)) →
    ∃ (k : Nat) (t : State) (evs : List Event), k ≤ s.agenda.length + s.eng.uq.length ∧ runSteps k s = .next t ∧
      t.eng.cur = none ∧ t.eng.hist = s.eng.hist ++ evs ++ [.done c] ∧ evs.filterMap Event.uop = s.eng.uq ∧
      t.eng.drv = c.exitLines ∧ t.eng.phase = c.exitPhase

/-- 41_bus_transport.md R140: SEND_BYTE from the host's write to its completion, with an acknowledge sample `a`. -/
def Obligations.SendByteRecordsAcknowledge : Prop :=
  ∀ (s : State) (v : Byte) (a : Bool), Inv s → s.eng.cur = none → s.eng.phase = .active →
    s.agenda = [.hostWrite s.cfg.engineBase 4 (0x2000#32 + v.setWidth 32), .remote .sda (!a)] →
    ∃ (t : State) (evs : List Event), runSteps 58 s = .next t ∧
      t.eng.cur = none ∧ t.eng.err = (s.eng.err || a) ∧ t.eng.drv = ⟨.low, .low⟩ ∧ t.eng.phase = .active ∧
      t.eng.rx = s.eng.rx ∧ t.eng.rxv = s.eng.rxv ∧ t.eng.ill = s.eng.ill ∧ t.eng.seq = s.eng.seq ∧
      t.eng.ovr = s.eng.ovr ∧
      t.eng.hist = s.eng.hist ++ [.accept (.sendByte v)] ++ evs ++ [.done (.sendByte v)] ∧
      evs.filterMap Event.uop = expand s.cfg (.sendByte v) ∧ Event.sample .sda a ∈ evs

/-- 41_bus_transport.md R150, R151: a remote device that sends the word `w` low byte first, each byte MSB first, is read
as `w`, and the host reads it from `RXDATA`. -/
def Obligations.ReadWordReturnsSentWord : Prop :=
  ∀ (s : State) (w : Half), Inv s → s.eng.cur = none → s.eng.phase = .active →
    s.agenda = [.hostWrite s.cfg.engineBase 4 0x4000#32] ++ (sendingWord w ++ [.hostRead (s.cfg.engineBase + 8) 4]) →
    ∃ t : State, runSteps s.agenda.length s = .next t ∧
      t.replies = s.replies ++ [w.setWidth 32] ∧ t.eng.rx = w ∧ t.eng.rxv = true ∧ t.eng.cur = none ∧
      t.eng.err = s.eng.err ∧ t.eng.phase = .active ∧ t.eng.drv = ⟨.low, .rel⟩

/-- 41_bus_transport.md R151: word assembly is a bijection, low byte from the first 8 samples, high byte from the next 8; the
samples of a word sent low byte first, each byte MSB first, assemble to it. -/
def Obligations.WordAssembly : Prop :=
  (∀ (bs : List Bool) (acc : Half), bs.length = 16 →
    let word := assembleWord ((List.range 16).foldl (fun r k => putSample r k (bs.getD k false)) acc)
    word = wordOfSamples bs ∧ word.toNat = bitsValue (bs.take 8) ||| (bitsValue (bs.drop 8) <<< 8) ∧
    ∀ k, k < 8 → word.getLsbD (7 - k) = bs.getD k false ∧ word.getLsbD (15 - k) = bs.getD (8 + k) false) ∧
  (∀ w : Half, ∃! bs : List Bool, bs.length = 16 ∧ wordOfSamples bs = w) ∧
  ∀ w : Half, wordOfSamples (byteBits (w.extractLsb' 0 8) ++ byteBits (w.extractLsb' 8 8)) = w

/-- 41_bus_transport.md R165: of the commands a host issues from Idle, each after the one before it has completed, none is
rejected exactly when they are a word of the grammar; and only SEQ can reject one. -/
def Obligations.CommandGrammar : Prop :=
  ∀ (s : State) (cs : List Cmd), Inv s → s.eng.cur = none → s.eng.phase = .idle → s.agenda = hostScript s.cfg cs →
    ∃ (t : State) (evs : List Event), runSteps s.agenda.length s = .next t ∧ t.eng.cur = none ∧
      t.eng.hist = s.eng.hist ++ evs ∧ (NoReject evs ↔ Grammar cs) ∧ ∀ w k, Event.reject w k ∈ evs → k = .seq

/-! ## The wire -/

/-- 41_bus_transport.md R131, R146, R161: with the remote device silent, a step of the engine makes a start condition
exactly at START's and RSTART's LOW SDA, and a stop condition exactly at STOP's REL SDA with SDA driven low before it; every
other change of SDA by the engine is a data change, made while SCL is low; and no host access moves a line. -/
def Obligations.WireConditions : Prop :=
  ∀ s t : State, Inv s → RemoteSilent s → step s = .next t →
    (nextTurn s = .engine → s.resetting = none →
      (startCondition s t ↔
        (s.eng.cur = some .start ∧ s.eng.upc = 3) ∨ (s.eng.cur = some .rstart ∧ s.eng.upc = 4)) ∧
      (stopCondition s t ↔ s.eng.cur = some .stop ∧ s.eng.upc = 2 ∧ s.eng.drv.sda = .low) ∧
      (t.eng.drv.sda ≠ s.eng.drv.sda → dataChange s t ∨ startCondition s t ∨ stopCondition s t)) ∧
    ((∃ a, nextAccess s = some a) → ∀ l, t.level l = s.level l)

/-- 41_bus_transport.md R141: in the clock-high phase of SEND_BYTE's cell `k` the engine presents bit `7 - k`. -/
def Obligations.SendByteBitsOnWire : Prop :=
  ∀ (s : State) (v : Byte) (k : Nat), Inv s → s.eng.cur = some (.sendByte v) → s.resetting = none → k < 8 → s.eng.upc = 6 * k + 3 →
    s.eng.uq.head? = some (.wait s.cfg.nBitHigh) ∧ s.eng.drv.scl = .rel ∧
    s.eng.drv.sda = (if v.getLsbD (7 - k) = false then .low else .rel) ∧
    (RemoteSilent s → s.level .scl = true ∧ s.level .sda = v.getLsbD (7 - k))

/-- 41_bus_transport.md R152: during READ_WORD the engine does not drive SDA in the receive cells, drives it low for the
acknowledge after the low byte, and releases it for the no-acknowledge after the high byte. -/
def Obligations.ReadWordAcknowledges : Prop :=
  ∀ s : State, Inv s → s.eng.cur = some .readWord → s.resetting = none →
    (1 ≤ s.eng.upc → s.eng.upc ≤ 57 → s.eng.drv.sda = .rel) ∧
    (58 ≤ s.eng.upc → s.eng.upc ≤ 64 → s.eng.drv.sda = .low) ∧
    (65 ≤ s.eng.upc → s.eng.drv.sda = .rel)

/-- 40_line_driver.md R104: no command samples SCL, and nothing the remote device does to SCL changes what the engine or
the host does. -/
def Obligations.ClockLineNeverRead : Prop :=
  (∀ (p : Params) (c : Cmd), Uop.smp .scl ∉ expand p c) ∧
  ∀ (s t : State) (x : Bool), Inv s → (∀ y, nextTurn s ≠ .remote .scl y) → step s = .next t →
    step { s with pull := ⟨x, s.pull.sda⟩ } = .next { t with pull := ⟨x, t.pull.sda⟩ }

/-- 41_bus_transport.md R124, R125, R166, 60_exceptions.md R177: which commands are accepted, which micro-ops run and how far
the host's program gets depends on the parameters, the lines as driven, the phase, the command, a reset in progress and the
program alone: not on the remote device, on a sample, on `err` or on a fault flag. -/
def Obligations.CourseIndependentOfSamples : Prop :=
  ∀ s s' t : State,
    (s.cfg = s'.cfg ∧ s.eng.drv = s'.eng.drv ∧ s.eng.phase = s'.eng.phase ∧ s.eng.cur = s'.eng.cur ∧
      s.eng.uq = s'.eng.uq ∧ s.eng.upc = s'.eng.upc ∧ s.resetting = s'.resetting ∧ s.program = s'.program) →
    nextTurn s = nextTurn s' → step s = .next t →
    ∃ t', step s' = .next t' ∧
      t.cfg = t'.cfg ∧ t.eng.drv = t'.eng.drv ∧ t.eng.phase = t'.eng.phase ∧ t.eng.cur = t'.eng.cur ∧
      t.eng.uq = t'.eng.uq ∧ t.eng.upc = t'.eng.upc ∧ t.resetting = t'.resetting ∧ t.program = t'.program

/-! ## Expansions -/

/-- 41_bus_transport.md R122: sizes, samples and nominal durations, for all parameters and at the defaults; R123: a bit cell
takes a nominal 4 T. -/
def Obligations.ExpansionSizes : Prop :=
  ∀ (p : Params) (v : Byte),
    ((expand p .start).length = 7 ∧ (expand p (.sendByte v)).length = 56 ∧ (expand p .rstart).length = 8 ∧
      (expand p .readWord).length = 128 ∧ (expand p .stop).length = 4) ∧
    ((expand p .start).count (.smp .sda) = 0 ∧ (expand p (.sendByte v)).count (.smp .sda) = 1 ∧
      (expand p .rstart).count (.smp .sda) = 0 ∧ (expand p .readWord).count (.smp .sda) = 16 ∧
      (expand p .stop).count (.smp .sda) = 0) ∧
    nominal (expand p .start) = p.nStartSettle.count + p.nStartHold.count + p.nStartTail.count ∧
    nominal (expand p (.sendByte v)) =
      8 * (p.nBitSetup.count + p.nBitHigh.count + p.nBitLow.count) + p.nAckSetup.count + p.nAckWin.count + p.nAckHold.count ∧
    nominal (expand p .rstart) = p.nRsRel.count + p.nRsHigh.count + p.nRsHold.count + p.nRsTail.count ∧
    nominal (expand p .readWord) =
      16 * (p.nBitSetup.count + p.nRdPre.count + p.nRdPost.count + p.nBitLow.count) + 2 * (p.nBitSetup.count + p.nBitHigh.count + p.nBitLow.count) +
        p.nRdAckSettle.count + p.nRdNackSettle.count ∧
    nominal (expand p .stop) = p.nStopHold.count + p.nStopTail.count ∧
    (nominal (expand defaultParams .start) = 105 ∧ nominal (expand defaultParams (.sendByte v)) = 125 ∧
      nominal (expand defaultParams .rstart) = 28 ∧ nominal (expand defaultParams .readWord) = 120 ∧
      nominal (expand defaultParams .stop) = 31) ∧
    (∀ x, nominal (txbit defaultParams x) = 4) ∧ nominal (rxbit defaultParams) = 4

/-- 70_reset_and_hazards.md R230 to R234: the nominal offsets of every event, at the defaults. -/
def Obligations.NominalTimelines : Prop :=
  (timeline 0 (expand defaultParams .start) = [(0, .rel .sda), (0, .rel .scl), (100, .low .sda), (101, .low .scl)] ∧
    nominal (expand defaultParams .start) = 105) ∧
  (∀ v : Byte,
    (let cell (i : Nat) : List (Nat × Uop) :=
      [(4 * (7 - i), if v.getLsbD i then .rel .sda else .low .sda), (4 * (7 - i) + 1, .rel .scl),
        (4 * (7 - i) + 3, .low .scl)]
    let tail : List (Nat × Uop) := [(32, .rel .sda), (33, .rel .scl), (35, .smp .sda), (35, .low .scl), (35, .low .sda)]
    timeline 0 (expand defaultParams (.sendByte v)) = [7, 6, 5, 4, 3, 2, 1, 0].flatMap cell ++ tail) ∧
    nominal (expand defaultParams (.sendByte v)) = 125) ∧
  (timeline 0 (expand defaultParams .rstart) = [(0, .rel .sda), (8, .rel .scl), (10, .low .sda), (12, .low .scl)] ∧
    nominal (expand defaultParams .rstart) = 28) ∧
  (let cell (c : Nat) : List (Nat × Uop) := [(c + 1, .rel .scl), (c + 2, .smp .sda), (c + 3, .low .scl)]
    let ack : List (Nat × Uop) := [(32, .low .sda), (33, .rel .scl), (35, .low .scl), (76, .rel .sda)]
    let nack : List (Nat × Uop) := [(108, .rel .sda), (109, .rel .scl), (111, .low .scl)]
    let lowCells := (List.range 8).flatMap (fun k => cell (4 * k))
    let highCells := (List.range 8).flatMap (fun k => cell (76 + 4 * k))
    timeline 0 (expand defaultParams .readWord) = [(0, .rel .sda)] ++ lowCells ++ ack ++ highCells ++ nack ∧
    nominal (expand defaultParams .readWord) = 120) ∧
  timeline 0 (expand defaultParams .stop) = [(0, .rel .scl), (1, .rel .sda)] ∧
  nominal (expand defaultParams .stop) = 31

/-- 41_bus_transport.md R167, 30_encoding.md R88: the canonical register read is a word of the grammar, READREG is an XFER of
each of its commands, and its nominal duration at the defaults is 659 T. -/
def Obligations.RegisterReadInGrammar : Prop :=
  ∀ wa rp ra : Byte,
    registerReadCommands wa rp ra =
      [.start, .sendByte wa, .sendByte rp, .rstart, .sendByte ra, .readWord, .stop] ∧
    readRegister wa rp ra =
      [.command .start, .waitIdle, .command (.sendByte wa), .waitIdle, .command (.sendByte rp), .waitIdle,
        .command .rstart, .waitIdle, .command (.sendByte ra), .waitIdle, .command .readWord, .waitIdle,
        .command .stop, .waitIdle] ∧
    Grammar (registerReadCommands wa rp ra) ∧
    ((registerReadCommands wa rp ra).map (fun c => nominal (expand defaultParams c))).sum = 659

/-- 10_state.md R28, 00_scope.md R4, 30_encoding.md R86: every micro-op of every expansion is what its `UOP16` word decodes to,
and every WAIT count is in 1..16383; every expansion is shorter than 256 and not empty. -/
def Obligations.ExpansionsWellFormed : Prop :=
  ∀ (p : Params) (c : Cmd),
    0 < (expand p c).length ∧ (expand p c).length < 256 ∧
    ∀ u ∈ expand p c, decodeTableWord 16 (encodeNat u.toInstr) = some u.toInstr ∧
      ∀ n, u = .wait n → 1 ≤ n.count ∧ n.count ≤ 16383
end

