-- ==== Sys2Proof/Laws/Expand.lean ====
section
/-! SUPPORT. The expansions as lists: durations, lengths and samples of the cells, and the cells of SEND_BYTE. -/

namespace Sys2Proof.Machine

@[simp] theorem nominal_nil : nominal [] = 0 := rfl

/-- Durations add up. -/
@[simp] theorem nominal_append (us vs : List Uop) : nominal (us ++ vs) = nominal us + nominal vs := by
  induction us with
  | nil => simp
  | cons u us ih => cases u <;> simp [nominal, ih, Nat.add_assoc]

@[simp] theorem nominal_dataUop (x : Bool) (us : List Uop) : nominal (dataUop x :: us) = nominal us := by
  cases x <;> rfl

@[simp] theorem nominal_pulse (p : Params) : nominal (pulse p) = p.nBitHigh.count + p.nBitLow.count := by
  simp [pulse, nominal]

@[simp] theorem nominal_txbit (p : Params) (x : Bool) :
    nominal (txbit p x) = p.nBitSetup.count + (p.nBitHigh.count + p.nBitLow.count) := by
  cases x <;> simp [txbit, dataUop, nominal]

@[simp] theorem nominal_rxbit (p : Params) :
    nominal (rxbit p) = p.nBitSetup.count + (p.nRdPre.count + (p.nRdPost.count + p.nBitLow.count)) := by
  simp [rxbit, nominal]

@[simp] theorem length_txbit (p : Params) (x : Bool) : (txbit p x).length = 6 := rfl

@[simp] theorem length_rxbit (p : Params) : (rxbit p).length = 7 := rfl

@[simp] theorem length_rxbyte (p : Params) : (rxbyte p).length = 56 := by
  simp [rxbyte]

/-- A transmit bit cell samples nothing. -/
@[simp] theorem count_smp_txbit (p : Params) (x : Bool) (l : Line) : (txbit p x).count (.smp l) = 0 := by
  cases x <;> cases l <;> rfl

/-- SEND_BYTE is eight transmit bit cells, most significant bit first, and the acknowledge phase. -/
theorem expandSendByte_eq (p : Params) (v : Byte) :
    expandSendByte p v = txbit p (v.getLsbD 7) ++ (txbit p (v.getLsbD 6) ++ (txbit p (v.getLsbD 5) ++
      (txbit p (v.getLsbD 4) ++ (txbit p (v.getLsbD 3) ++ (txbit p (v.getLsbD 2) ++ (txbit p (v.getLsbD 1) ++
        (txbit p (v.getLsbD 0) ++ ackPhase p))))))) := by
  simp only [expandSendByte, byteBits, List.flatMap_cons, List.flatMap_nil, List.append_nil, List.append_assoc]

/-- READ_WORD's two bytes. -/
theorem expandReadWord_eq (p : Params) :
    expandReadWord p =
      ([.rel .sda] ++ rxbyte p ++ txbit p false ++ [.wait p.nRdAckSettle]) ++
      ([.rel .sda] ++ rxbyte p ++ txbit p true ++ [.wait p.nRdNackSettle]) := by
  simp [expandReadWord]

@[simp] theorem length_expandSendByte (p : Params) (v : Byte) : (expandSendByte p v).length = 56 := by
  simp [expandSendByte_eq, ackPhase]

@[simp] theorem length_expandReadWord (p : Params) : (expandReadWord p).length = 128 := by
  simp [expandReadWord_eq]

end Sys2Proof.Machine
end

