-- ==== Sys2Proof/Laws/State.lean ====
section
/-! SUPPORT. What each named update does to each field: one lemma per field per update, all by definition. -/

namespace Sys2Proof.Machine

/-! ## Lines -/

@[simp] theorem Pads.get_scl (d : Pads) : d.get .scl = d.scl := rfl
@[simp] theorem Pads.get_sda (d : Pads) : d.get .sda = d.sda := rfl
@[simp] theorem Pads.set_scl (d : Pads) (x : Drive) : d.set .scl x = ⟨x, d.sda⟩ := rfl
@[simp] theorem Pads.set_sda (d : Pads) (x : Drive) : d.set .sda x = ⟨d.scl, x⟩ := rfl
@[simp] theorem Pads.released_scl : Pads.released.scl = .rel := rfl
@[simp] theorem Pads.released_sda : Pads.released.sda = .rel := rfl
@[simp] theorem Pulls.get_scl (p : Pulls) : p.get .scl = p.scl := rfl
@[simp] theorem Pulls.get_sda (p : Pulls) : p.get .sda = p.sda := rfl
@[simp] theorem Pulls.set_scl (p : Pulls) (x : Bool) : p.set .scl x = ⟨x, p.sda⟩ := rfl
@[simp] theorem Pulls.set_sda (p : Pulls) (x : Bool) : p.set .sda x = ⟨p.scl, x⟩ := rfl
@[simp] theorem otherLine_scl : otherLine .scl = .sda := rfl
@[simp] theorem otherLine_sda : otherLine .sda = .scl := rfl

/-- Reading a line's drive after writing it. -/
@[simp] theorem Pads.get_set_self (d : Pads) (l : Line) (x : Drive) : (d.set l x).get l = x := by
  cases l <;> rfl

/-- Writing one line leaves the other alone. -/
@[simp] theorem Pads.get_set_other (d : Pads) (l : Line) (x : Drive) :
    (d.set l x).get (otherLine l) = d.get (otherLine l) := by
  cases l <;> rfl


/-! ## `log` -/

@[simp] theorem Engine.log_drv (e : Engine) (ev : Event) : (e.log ev).drv = e.drv := rfl
@[simp] theorem Engine.log_phase (e : Engine) (ev : Event) : (e.log ev).phase = e.phase := rfl
@[simp] theorem Engine.log_err (e : Engine) (ev : Event) : (e.log ev).err = e.err := rfl
@[simp] theorem Engine.log_cur (e : Engine) (ev : Event) : (e.log ev).cur = e.cur := rfl
@[simp] theorem Engine.log_uq (e : Engine) (ev : Event) : (e.log ev).uq = e.uq := rfl
@[simp] theorem Engine.log_upc (e : Engine) (ev : Event) : (e.log ev).upc = e.upc := rfl
@[simp] theorem Engine.log_tmr (e : Engine) (ev : Event) : (e.log ev).tmr = e.tmr := rfl
@[simp] theorem Engine.log_rxacc (e : Engine) (ev : Event) : (e.log ev).rxacc = e.rxacc := rfl
@[simp] theorem Engine.log_nsmp (e : Engine) (ev : Event) : (e.log ev).nsmp = e.nsmp := rfl
@[simp] theorem Engine.log_rx (e : Engine) (ev : Event) : (e.log ev).rx = e.rx := rfl
@[simp] theorem Engine.log_rxv (e : Engine) (ev : Event) : (e.log ev).rxv = e.rxv := rfl
@[simp] theorem Engine.log_ill (e : Engine) (ev : Event) : (e.log ev).ill = e.ill := rfl
@[simp] theorem Engine.log_seq (e : Engine) (ev : Event) : (e.log ev).seq = e.seq := rfl
@[simp] theorem Engine.log_ovr (e : Engine) (ev : Event) : (e.log ev).ovr = e.ovr := rfl
@[simp] theorem Engine.log_hist (e : Engine) (ev : Event) : (e.log ev).hist = e.hist ++ [ev] := rfl

/-! ## `setDrv` -/

@[simp] theorem Engine.setDrv_drv (e : Engine) (l : Line) (x : Drive) : (e.setDrv l x).drv = e.drv.set l x := rfl
@[simp] theorem Engine.setDrv_phase (e : Engine) (l : Line) (x : Drive) : (e.setDrv l x).phase = e.phase := rfl
@[simp] theorem Engine.setDrv_err (e : Engine) (l : Line) (x : Drive) : (e.setDrv l x).err = e.err := rfl
@[simp] theorem Engine.setDrv_cur (e : Engine) (l : Line) (x : Drive) : (e.setDrv l x).cur = e.cur := rfl
@[simp] theorem Engine.setDrv_uq (e : Engine) (l : Line) (x : Drive) : (e.setDrv l x).uq = e.uq := rfl
@[simp] theorem Engine.setDrv_upc (e : Engine) (l : Line) (x : Drive) : (e.setDrv l x).upc = e.upc := rfl
@[simp] theorem Engine.setDrv_tmr (e : Engine) (l : Line) (x : Drive) : (e.setDrv l x).tmr = e.tmr := rfl
@[simp] theorem Engine.setDrv_rxacc (e : Engine) (l : Line) (x : Drive) : (e.setDrv l x).rxacc = e.rxacc := rfl
@[simp] theorem Engine.setDrv_nsmp (e : Engine) (l : Line) (x : Drive) : (e.setDrv l x).nsmp = e.nsmp := rfl
@[simp] theorem Engine.setDrv_rx (e : Engine) (l : Line) (x : Drive) : (e.setDrv l x).rx = e.rx := rfl
@[simp] theorem Engine.setDrv_rxv (e : Engine) (l : Line) (x : Drive) : (e.setDrv l x).rxv = e.rxv := rfl
@[simp] theorem Engine.setDrv_ill (e : Engine) (l : Line) (x : Drive) : (e.setDrv l x).ill = e.ill := rfl
@[simp] theorem Engine.setDrv_seq (e : Engine) (l : Line) (x : Drive) : (e.setDrv l x).seq = e.seq := rfl
@[simp] theorem Engine.setDrv_ovr (e : Engine) (l : Line) (x : Drive) : (e.setDrv l x).ovr = e.ovr := rfl
@[simp] theorem Engine.setDrv_hist (e : Engine) (l : Line) (x : Drive) : (e.setDrv l x).hist = e.hist := rfl

/-! ## `release` -/

@[simp] theorem Engine.release_drv (e : Engine) (l : Line) : (e.release l).drv = e.drv.set l .rel := rfl
@[simp] theorem Engine.release_phase (e : Engine) (l : Line) : (e.release l).phase = e.phase := rfl
@[simp] theorem Engine.release_err (e : Engine) (l : Line) : (e.release l).err = e.err := rfl
@[simp] theorem Engine.release_cur (e : Engine) (l : Line) : (e.release l).cur = e.cur := rfl
@[simp] theorem Engine.release_uq (e : Engine) (l : Line) : (e.release l).uq = e.uq := rfl
@[simp] theorem Engine.release_upc (e : Engine) (l : Line) : (e.release l).upc = e.upc := rfl
@[simp] theorem Engine.release_tmr (e : Engine) (l : Line) : (e.release l).tmr = e.tmr := rfl
@[simp] theorem Engine.release_rxacc (e : Engine) (l : Line) : (e.release l).rxacc = e.rxacc := rfl
@[simp] theorem Engine.release_nsmp (e : Engine) (l : Line) : (e.release l).nsmp = e.nsmp := rfl
@[simp] theorem Engine.release_rx (e : Engine) (l : Line) : (e.release l).rx = e.rx := rfl
@[simp] theorem Engine.release_rxv (e : Engine) (l : Line) : (e.release l).rxv = e.rxv := rfl
@[simp] theorem Engine.release_ill (e : Engine) (l : Line) : (e.release l).ill = e.ill := rfl
@[simp] theorem Engine.release_seq (e : Engine) (l : Line) : (e.release l).seq = e.seq := rfl
@[simp] theorem Engine.release_ovr (e : Engine) (l : Line) : (e.release l).ovr = e.ovr := rfl
@[simp] theorem Engine.release_hist (e : Engine) (l : Line) : (e.release l).hist = e.hist ++ [.drive l .rel] := rfl

/-! ## `assertLow` -/

@[simp] theorem Engine.assertLow_drv (e : Engine) (l : Line) : (e.assertLow l).drv = e.drv.set l .low := rfl
@[simp] theorem Engine.assertLow_phase (e : Engine) (l : Line) : (e.assertLow l).phase = e.phase := rfl
@[simp] theorem Engine.assertLow_err (e : Engine) (l : Line) : (e.assertLow l).err = e.err := rfl
@[simp] theorem Engine.assertLow_cur (e : Engine) (l : Line) : (e.assertLow l).cur = e.cur := rfl
@[simp] theorem Engine.assertLow_uq (e : Engine) (l : Line) : (e.assertLow l).uq = e.uq := rfl
@[simp] theorem Engine.assertLow_upc (e : Engine) (l : Line) : (e.assertLow l).upc = e.upc := rfl
@[simp] theorem Engine.assertLow_tmr (e : Engine) (l : Line) : (e.assertLow l).tmr = e.tmr := rfl
@[simp] theorem Engine.assertLow_rxacc (e : Engine) (l : Line) : (e.assertLow l).rxacc = e.rxacc := rfl
@[simp] theorem Engine.assertLow_nsmp (e : Engine) (l : Line) : (e.assertLow l).nsmp = e.nsmp := rfl
@[simp] theorem Engine.assertLow_rx (e : Engine) (l : Line) : (e.assertLow l).rx = e.rx := rfl
@[simp] theorem Engine.assertLow_rxv (e : Engine) (l : Line) : (e.assertLow l).rxv = e.rxv := rfl
@[simp] theorem Engine.assertLow_ill (e : Engine) (l : Line) : (e.assertLow l).ill = e.ill := rfl
@[simp] theorem Engine.assertLow_seq (e : Engine) (l : Line) : (e.assertLow l).seq = e.seq := rfl
@[simp] theorem Engine.assertLow_ovr (e : Engine) (l : Line) : (e.assertLow l).ovr = e.ovr := rfl
@[simp] theorem Engine.assertLow_hist (e : Engine) (l : Line) : (e.assertLow l).hist = e.hist ++ [.drive l .low] := rfl

/-! ## `setFlag` -/

@[simp] theorem Engine.setFlag_drv (e : Engine) (k : RejectKind) : (e.setFlag k).drv = e.drv := by cases k <;> rfl
@[simp] theorem Engine.setFlag_phase (e : Engine) (k : RejectKind) : (e.setFlag k).phase = e.phase := by cases k <;> rfl
@[simp] theorem Engine.setFlag_err (e : Engine) (k : RejectKind) : (e.setFlag k).err = e.err := by cases k <;> rfl
@[simp] theorem Engine.setFlag_cur (e : Engine) (k : RejectKind) : (e.setFlag k).cur = e.cur := by cases k <;> rfl
@[simp] theorem Engine.setFlag_uq (e : Engine) (k : RejectKind) : (e.setFlag k).uq = e.uq := by cases k <;> rfl
@[simp] theorem Engine.setFlag_upc (e : Engine) (k : RejectKind) : (e.setFlag k).upc = e.upc := by cases k <;> rfl
@[simp] theorem Engine.setFlag_tmr (e : Engine) (k : RejectKind) : (e.setFlag k).tmr = e.tmr := by cases k <;> rfl
@[simp] theorem Engine.setFlag_rxacc (e : Engine) (k : RejectKind) : (e.setFlag k).rxacc = e.rxacc := by cases k <;> rfl
@[simp] theorem Engine.setFlag_nsmp (e : Engine) (k : RejectKind) : (e.setFlag k).nsmp = e.nsmp := by cases k <;> rfl
@[simp] theorem Engine.setFlag_rx (e : Engine) (k : RejectKind) : (e.setFlag k).rx = e.rx := by cases k <;> rfl
@[simp] theorem Engine.setFlag_rxv (e : Engine) (k : RejectKind) : (e.setFlag k).rxv = e.rxv := by cases k <;> rfl
@[simp] theorem Engine.setFlag_hist (e : Engine) (k : RejectKind) : (e.setFlag k).hist = e.hist := by cases k <;> rfl

/-! ## `raise` -/

@[simp] theorem Engine.raise_drv (e : Engine) (w : Word) (k : RejectKind) : (e.raise w k).drv = e.drv := by cases k <;> rfl
@[simp] theorem Engine.raise_phase (e : Engine) (w : Word) (k : RejectKind) : (e.raise w k).phase = e.phase := by cases k <;> rfl
@[simp] theorem Engine.raise_err (e : Engine) (w : Word) (k : RejectKind) : (e.raise w k).err = e.err := by cases k <;> rfl
@[simp] theorem Engine.raise_cur (e : Engine) (w : Word) (k : RejectKind) : (e.raise w k).cur = e.cur := by cases k <;> rfl
@[simp] theorem Engine.raise_uq (e : Engine) (w : Word) (k : RejectKind) : (e.raise w k).uq = e.uq := by cases k <;> rfl
@[simp] theorem Engine.raise_upc (e : Engine) (w : Word) (k : RejectKind) : (e.raise w k).upc = e.upc := by cases k <;> rfl
@[simp] theorem Engine.raise_tmr (e : Engine) (w : Word) (k : RejectKind) : (e.raise w k).tmr = e.tmr := by cases k <;> rfl
@[simp] theorem Engine.raise_rxacc (e : Engine) (w : Word) (k : RejectKind) : (e.raise w k).rxacc = e.rxacc := by cases k <;> rfl
@[simp] theorem Engine.raise_nsmp (e : Engine) (w : Word) (k : RejectKind) : (e.raise w k).nsmp = e.nsmp := by cases k <;> rfl
@[simp] theorem Engine.raise_rx (e : Engine) (w : Word) (k : RejectKind) : (e.raise w k).rx = e.rx := by cases k <;> rfl
@[simp] theorem Engine.raise_rxv (e : Engine) (w : Word) (k : RejectKind) : (e.raise w k).rxv = e.rxv := by cases k <;> rfl
@[simp] theorem Engine.raise_hist (e : Engine) (w : Word) (k : RejectKind) : (e.raise w k).hist = e.hist ++ [.reject w k] := by cases k <;> rfl

/-! ## `writeStatus` -/

@[simp] theorem Engine.writeStatus_drv (e : Engine) (v : Word) : (e.writeStatus v).drv = e.drv := rfl
@[simp] theorem Engine.writeStatus_phase (e : Engine) (v : Word) : (e.writeStatus v).phase = e.phase := rfl
@[simp] theorem Engine.writeStatus_err (e : Engine) (v : Word) : (e.writeStatus v).err = e.err := rfl
@[simp] theorem Engine.writeStatus_cur (e : Engine) (v : Word) : (e.writeStatus v).cur = e.cur := rfl
@[simp] theorem Engine.writeStatus_uq (e : Engine) (v : Word) : (e.writeStatus v).uq = e.uq := rfl
@[simp] theorem Engine.writeStatus_upc (e : Engine) (v : Word) : (e.writeStatus v).upc = e.upc := rfl
@[simp] theorem Engine.writeStatus_tmr (e : Engine) (v : Word) : (e.writeStatus v).tmr = e.tmr := rfl
@[simp] theorem Engine.writeStatus_rxacc (e : Engine) (v : Word) : (e.writeStatus v).rxacc = e.rxacc := rfl
@[simp] theorem Engine.writeStatus_nsmp (e : Engine) (v : Word) : (e.writeStatus v).nsmp = e.nsmp := rfl
@[simp] theorem Engine.writeStatus_rx (e : Engine) (v : Word) : (e.writeStatus v).rx = e.rx := rfl
@[simp] theorem Engine.writeStatus_rxv (e : Engine) (v : Word) : (e.writeStatus v).rxv = e.rxv := rfl
@[simp] theorem Engine.writeStatus_ill (e : Engine) (v : Word) : (e.writeStatus v).ill = (e.ill && !v.getLsbD 4) := rfl
@[simp] theorem Engine.writeStatus_seq (e : Engine) (v : Word) : (e.writeStatus v).seq = (e.seq && !v.getLsbD 5) := rfl
@[simp] theorem Engine.writeStatus_ovr (e : Engine) (v : Word) : (e.writeStatus v).ovr = (e.ovr && !v.getLsbD 6) := rfl
@[simp] theorem Engine.writeStatus_hist (e : Engine) (v : Word) : (e.writeStatus v).hist = e.hist := rfl

/-! ## `acceptActions` -/

@[simp] theorem Engine.acceptActions_drv (e : Engine) (c : Cmd) : (e.acceptActions c).drv = e.drv := by cases c <;> rfl
@[simp] theorem Engine.acceptActions_phase (e : Engine) (c : Cmd) : (e.acceptActions c).phase = e.phase := by cases c <;> rfl
@[simp] theorem Engine.acceptActions_cur (e : Engine) (c : Cmd) : (e.acceptActions c).cur = e.cur := by cases c <;> rfl
@[simp] theorem Engine.acceptActions_uq (e : Engine) (c : Cmd) : (e.acceptActions c).uq = e.uq := by cases c <;> rfl
@[simp] theorem Engine.acceptActions_upc (e : Engine) (c : Cmd) : (e.acceptActions c).upc = e.upc := by cases c <;> rfl
@[simp] theorem Engine.acceptActions_tmr (e : Engine) (c : Cmd) : (e.acceptActions c).tmr = e.tmr := by cases c <;> rfl
@[simp] theorem Engine.acceptActions_rxacc (e : Engine) (c : Cmd) : (e.acceptActions c).rxacc = e.rxacc := by cases c <;> rfl
@[simp] theorem Engine.acceptActions_rx (e : Engine) (c : Cmd) : (e.acceptActions c).rx = e.rx := by cases c <;> rfl
@[simp] theorem Engine.acceptActions_ill (e : Engine) (c : Cmd) : (e.acceptActions c).ill = e.ill := by cases c <;> rfl
@[simp] theorem Engine.acceptActions_seq (e : Engine) (c : Cmd) : (e.acceptActions c).seq = e.seq := by cases c <;> rfl
@[simp] theorem Engine.acceptActions_ovr (e : Engine) (c : Cmd) : (e.acceptActions c).ovr = e.ovr := by cases c <;> rfl
@[simp] theorem Engine.acceptActions_hist (e : Engine) (c : Cmd) : (e.acceptActions c).hist = e.hist := by cases c <;> rfl

/-! ## `accept` -/

@[simp] theorem Engine.accept_drv (e : Engine) (p : Params) (c : Cmd) : (e.accept p c).drv = e.drv := by cases c <;> rfl
@[simp] theorem Engine.accept_phase (e : Engine) (p : Params) (c : Cmd) : (e.accept p c).phase = e.phase := by cases c <;> rfl
@[simp] theorem Engine.accept_cur (e : Engine) (p : Params) (c : Cmd) : (e.accept p c).cur = some c := by cases c <;> rfl
@[simp] theorem Engine.accept_uq (e : Engine) (p : Params) (c : Cmd) : (e.accept p c).uq = expand p c := by cases c <;> rfl
@[simp] theorem Engine.accept_upc (e : Engine) (p : Params) (c : Cmd) : (e.accept p c).upc = 0 := by cases c <;> rfl
@[simp] theorem Engine.accept_tmr (e : Engine) (p : Params) (c : Cmd) : (e.accept p c).tmr = e.tmr := by cases c <;> rfl
@[simp] theorem Engine.accept_rxacc (e : Engine) (p : Params) (c : Cmd) : (e.accept p c).rxacc = e.rxacc := by cases c <;> rfl
@[simp] theorem Engine.accept_rx (e : Engine) (p : Params) (c : Cmd) : (e.accept p c).rx = e.rx := by cases c <;> rfl
@[simp] theorem Engine.accept_ill (e : Engine) (p : Params) (c : Cmd) : (e.accept p c).ill = e.ill := by cases c <;> rfl
@[simp] theorem Engine.accept_seq (e : Engine) (p : Params) (c : Cmd) : (e.accept p c).seq = e.seq := by cases c <;> rfl
@[simp] theorem Engine.accept_ovr (e : Engine) (p : Params) (c : Cmd) : (e.accept p c).ovr = e.ovr := by cases c <;> rfl
@[simp] theorem Engine.accept_hist (e : Engine) (p : Params) (c : Cmd) : (e.accept p c).hist = e.hist ++ [.accept c] := by cases c <;> rfl

/-! ## `deliver` -/

@[simp] theorem Engine.deliver_drv (e : Engine) (c : Option Cmd) (b : Bool) : (e.deliver c b).drv = e.drv := by rcases c with _ | c <;> [rfl; (cases c <;> rfl)]
@[simp] theorem Engine.deliver_phase (e : Engine) (c : Option Cmd) (b : Bool) : (e.deliver c b).phase = e.phase := by rcases c with _ | c <;> [rfl; (cases c <;> rfl)]
@[simp] theorem Engine.deliver_cur (e : Engine) (c : Option Cmd) (b : Bool) : (e.deliver c b).cur = e.cur := by rcases c with _ | c <;> [rfl; (cases c <;> rfl)]
@[simp] theorem Engine.deliver_uq (e : Engine) (c : Option Cmd) (b : Bool) : (e.deliver c b).uq = e.uq := by rcases c with _ | c <;> [rfl; (cases c <;> rfl)]
@[simp] theorem Engine.deliver_upc (e : Engine) (c : Option Cmd) (b : Bool) : (e.deliver c b).upc = e.upc := by rcases c with _ | c <;> [rfl; (cases c <;> rfl)]
@[simp] theorem Engine.deliver_tmr (e : Engine) (c : Option Cmd) (b : Bool) : (e.deliver c b).tmr = e.tmr := by rcases c with _ | c <;> [rfl; (cases c <;> rfl)]
@[simp] theorem Engine.deliver_rx (e : Engine) (c : Option Cmd) (b : Bool) : (e.deliver c b).rx = e.rx := by rcases c with _ | c <;> [rfl; (cases c <;> rfl)]
@[simp] theorem Engine.deliver_rxv (e : Engine) (c : Option Cmd) (b : Bool) : (e.deliver c b).rxv = e.rxv := by rcases c with _ | c <;> [rfl; (cases c <;> rfl)]
@[simp] theorem Engine.deliver_ill (e : Engine) (c : Option Cmd) (b : Bool) : (e.deliver c b).ill = e.ill := by rcases c with _ | c <;> [rfl; (cases c <;> rfl)]
@[simp] theorem Engine.deliver_seq (e : Engine) (c : Option Cmd) (b : Bool) : (e.deliver c b).seq = e.seq := by rcases c with _ | c <;> [rfl; (cases c <;> rfl)]
@[simp] theorem Engine.deliver_ovr (e : Engine) (c : Option Cmd) (b : Bool) : (e.deliver c b).ovr = e.ovr := by rcases c with _ | c <;> [rfl; (cases c <;> rfl)]
@[simp] theorem Engine.deliver_hist (e : Engine) (c : Option Cmd) (b : Bool) : (e.deliver c b).hist = e.hist := by rcases c with _ | c <;> [rfl; (cases c <;> rfl)]

/-! ## `completeActions` -/

@[simp] theorem Engine.completeActions_drv (e : Engine) (j : Half) (c : Cmd) : (e.completeActions j c).drv = e.drv := by cases c <;> rfl
@[simp] theorem Engine.completeActions_err (e : Engine) (j : Half) (c : Cmd) : (e.completeActions j c).err = e.err := by cases c <;> rfl
@[simp] theorem Engine.completeActions_cur (e : Engine) (j : Half) (c : Cmd) : (e.completeActions j c).cur = e.cur := by cases c <;> rfl
@[simp] theorem Engine.completeActions_uq (e : Engine) (j : Half) (c : Cmd) : (e.completeActions j c).uq = e.uq := by cases c <;> rfl
@[simp] theorem Engine.completeActions_upc (e : Engine) (j : Half) (c : Cmd) : (e.completeActions j c).upc = e.upc := by cases c <;> rfl
@[simp] theorem Engine.completeActions_tmr (e : Engine) (j : Half) (c : Cmd) : (e.completeActions j c).tmr = e.tmr := by cases c <;> rfl
@[simp] theorem Engine.completeActions_nsmp (e : Engine) (j : Half) (c : Cmd) : (e.completeActions j c).nsmp = e.nsmp := by cases c <;> rfl
@[simp] theorem Engine.completeActions_ill (e : Engine) (j : Half) (c : Cmd) : (e.completeActions j c).ill = e.ill := by cases c <;> rfl
@[simp] theorem Engine.completeActions_seq (e : Engine) (j : Half) (c : Cmd) : (e.completeActions j c).seq = e.seq := by cases c <;> rfl
@[simp] theorem Engine.completeActions_ovr (e : Engine) (j : Half) (c : Cmd) : (e.completeActions j c).ovr = e.ovr := by cases c <;> rfl
@[simp] theorem Engine.completeActions_hist (e : Engine) (j : Half) (c : Cmd) : (e.completeActions j c).hist = e.hist := by cases c <;> rfl

/-! ## `complete` -/

@[simp] theorem Engine.complete_drv (e : Engine) (j : Half) (c : Cmd) : (e.complete j c).drv = e.drv := by cases c <;> rfl
@[simp] theorem Engine.complete_err (e : Engine) (j : Half) (c : Cmd) : (e.complete j c).err = e.err := by cases c <;> rfl
@[simp] theorem Engine.complete_cur (e : Engine) (j : Half) (c : Cmd) : (e.complete j c).cur = none := by cases c <;> rfl
@[simp] theorem Engine.complete_uq (e : Engine) (j : Half) (c : Cmd) : (e.complete j c).uq = e.uq := by cases c <;> rfl
@[simp] theorem Engine.complete_upc (e : Engine) (j : Half) (c : Cmd) : (e.complete j c).upc = e.upc := by cases c <;> rfl
@[simp] theorem Engine.complete_tmr (e : Engine) (j : Half) (c : Cmd) : (e.complete j c).tmr = e.tmr := by cases c <;> rfl
@[simp] theorem Engine.complete_nsmp (e : Engine) (j : Half) (c : Cmd) : (e.complete j c).nsmp = e.nsmp := by cases c <;> rfl
@[simp] theorem Engine.complete_ill (e : Engine) (j : Half) (c : Cmd) : (e.complete j c).ill = e.ill := by cases c <;> rfl
@[simp] theorem Engine.complete_seq (e : Engine) (j : Half) (c : Cmd) : (e.complete j c).seq = e.seq := by cases c <;> rfl
@[simp] theorem Engine.complete_ovr (e : Engine) (j : Half) (c : Cmd) : (e.complete j c).ovr = e.ovr := by cases c <;> rfl
@[simp] theorem Engine.complete_hist (e : Engine) (j : Half) (c : Cmd) : (e.complete j c).hist = e.hist ++ [.done c] := by cases c <;> rfl

/-- R103's loop ends with the timer at 0. -/
@[simp] theorem countDown_eq_zero (n : Nat) : countDown n = 0 := by
  induction n with
  | zero => rfl
  | succ n ih => exact ih


/-! ## `delay` -/

@[simp] theorem Engine.delay_drv (e : Engine) (n : Delay) : (e.delay n).drv = e.drv := by simp [Engine.delay]
@[simp] theorem Engine.delay_phase (e : Engine) (n : Delay) : (e.delay n).phase = e.phase := by simp [Engine.delay]
@[simp] theorem Engine.delay_err (e : Engine) (n : Delay) : (e.delay n).err = e.err := by simp [Engine.delay]
@[simp] theorem Engine.delay_cur (e : Engine) (n : Delay) : (e.delay n).cur = e.cur := by simp [Engine.delay]
@[simp] theorem Engine.delay_uq (e : Engine) (n : Delay) : (e.delay n).uq = e.uq := by simp [Engine.delay]
@[simp] theorem Engine.delay_upc (e : Engine) (n : Delay) : (e.delay n).upc = e.upc := by simp [Engine.delay]
@[simp] theorem Engine.delay_tmr (e : Engine) (n : Delay) : (e.delay n).tmr = 0 := by simp [Engine.delay]
@[simp] theorem Engine.delay_rxacc (e : Engine) (n : Delay) : (e.delay n).rxacc = e.rxacc := by simp [Engine.delay]
@[simp] theorem Engine.delay_nsmp (e : Engine) (n : Delay) : (e.delay n).nsmp = e.nsmp := by simp [Engine.delay]
@[simp] theorem Engine.delay_rx (e : Engine) (n : Delay) : (e.delay n).rx = e.rx := by simp [Engine.delay]
@[simp] theorem Engine.delay_rxv (e : Engine) (n : Delay) : (e.delay n).rxv = e.rxv := by simp [Engine.delay]
@[simp] theorem Engine.delay_ill (e : Engine) (n : Delay) : (e.delay n).ill = e.ill := by simp [Engine.delay]
@[simp] theorem Engine.delay_seq (e : Engine) (n : Delay) : (e.delay n).seq = e.seq := by simp [Engine.delay]
@[simp] theorem Engine.delay_ovr (e : Engine) (n : Delay) : (e.delay n).ovr = e.ovr := by simp [Engine.delay]
@[simp] theorem Engine.delay_hist (e : Engine) (n : Delay) : (e.delay n).hist = e.hist ++ [.wait n] := by simp [Engine.delay]

/-! ## `resetTo` -/

@[simp] theorem Engine.resetTo_drv (e : Engine) (x y : Half) : (e.resetTo x y).drv = Pads.released := rfl
@[simp] theorem Engine.resetTo_phase (e : Engine) (x y : Half) : (e.resetTo x y).phase = .idle := rfl
@[simp] theorem Engine.resetTo_err (e : Engine) (x y : Half) : (e.resetTo x y).err = false := rfl
@[simp] theorem Engine.resetTo_cur (e : Engine) (x y : Half) : (e.resetTo x y).cur = none := rfl
@[simp] theorem Engine.resetTo_uq (e : Engine) (x y : Half) : (e.resetTo x y).uq = [] := rfl
@[simp] theorem Engine.resetTo_upc (e : Engine) (x y : Half) : (e.resetTo x y).upc = 0 := rfl
@[simp] theorem Engine.resetTo_tmr (e : Engine) (x y : Half) : (e.resetTo x y).tmr = 0 := rfl
@[simp] theorem Engine.resetTo_rxacc (e : Engine) (x y : Half) : (e.resetTo x y).rxacc = y := rfl
@[simp] theorem Engine.resetTo_nsmp (e : Engine) (x y : Half) : (e.resetTo x y).nsmp = 0 := rfl
@[simp] theorem Engine.resetTo_rx (e : Engine) (x y : Half) : (e.resetTo x y).rx = x := rfl
@[simp] theorem Engine.resetTo_rxv (e : Engine) (x y : Half) : (e.resetTo x y).rxv = false := rfl
@[simp] theorem Engine.resetTo_ill (e : Engine) (x y : Half) : (e.resetTo x y).ill = false := rfl
@[simp] theorem Engine.resetTo_seq (e : Engine) (x y : Half) : (e.resetTo x y).seq = false := rfl
@[simp] theorem Engine.resetTo_ovr (e : Engine) (x y : Half) : (e.resetTo x y).ovr = false := rfl
@[simp] theorem Engine.resetTo_hist (e : Engine) (x y : Half) : (e.resetTo x y).hist = e.hist ++ [.reset] := rfl

/-! ## `popUop` -/

@[simp] theorem State.popUop_cfg (s : State) (us : List Uop) : (s.popUop us).cfg = s.cfg := rfl
@[simp] theorem State.popUop_pull (s : State) (us : List Uop) : (s.popUop us).pull = s.pull := rfl
@[simp] theorem State.popUop_agenda (s : State) (us : List Uop) : (s.popUop us).agenda = s.agenda := rfl
@[simp] theorem State.popUop_replies (s : State) (us : List Uop) : (s.popUop us).replies = s.replies := rfl
@[simp] theorem State.popUop_draws (s : State) (us : List Uop) : (s.popUop us).draws = s.draws := rfl
@[simp] theorem State.popUop_program (s : State) (us : List Uop) : (s.popUop us).program = s.program := rfl
@[simp] theorem State.popUop_results (s : State) (us : List Uop) : (s.popUop us).results = s.results := rfl
@[simp] theorem State.popUop_resetting (s : State) (us : List Uop) : (s.popUop us).resetting = s.resetting := rfl
@[simp] theorem State.popUop_uq (s : State) (us : List Uop) : (s.popUop us).eng.uq = us := rfl
@[simp] theorem State.popUop_upc (s : State) (us : List Uop) : (s.popUop us).eng.upc = s.eng.upc + 1 := rfl
@[simp] theorem State.popUop_drv (s : State) (us : List Uop) : (s.popUop us).eng.drv = s.eng.drv := rfl
@[simp] theorem State.popUop_phase (s : State) (us : List Uop) : (s.popUop us).eng.phase = s.eng.phase := rfl
@[simp] theorem State.popUop_err (s : State) (us : List Uop) : (s.popUop us).eng.err = s.eng.err := rfl
@[simp] theorem State.popUop_cur (s : State) (us : List Uop) : (s.popUop us).eng.cur = s.eng.cur := rfl
@[simp] theorem State.popUop_tmr (s : State) (us : List Uop) : (s.popUop us).eng.tmr = s.eng.tmr := rfl
@[simp] theorem State.popUop_rxacc (s : State) (us : List Uop) : (s.popUop us).eng.rxacc = s.eng.rxacc := rfl
@[simp] theorem State.popUop_nsmp (s : State) (us : List Uop) : (s.popUop us).eng.nsmp = s.eng.nsmp := rfl
@[simp] theorem State.popUop_rx (s : State) (us : List Uop) : (s.popUop us).eng.rx = s.eng.rx := rfl
@[simp] theorem State.popUop_rxv (s : State) (us : List Uop) : (s.popUop us).eng.rxv = s.eng.rxv := rfl
@[simp] theorem State.popUop_ill (s : State) (us : List Uop) : (s.popUop us).eng.ill = s.eng.ill := rfl
@[simp] theorem State.popUop_seq (s : State) (us : List Uop) : (s.popUop us).eng.seq = s.eng.seq := rfl
@[simp] theorem State.popUop_ovr (s : State) (us : List Uop) : (s.popUop us).eng.ovr = s.eng.ovr := rfl
@[simp] theorem State.popUop_hist (s : State) (us : List Uop) : (s.popUop us).eng.hist = s.eng.hist := rfl

/-! ## `readReg` -/

@[simp] theorem State.readReg_eng (s : State) (r : Reg) : (s.readReg r).eng = s.eng := rfl
@[simp] theorem State.readReg_cfg (s : State) (r : Reg) : (s.readReg r).cfg = s.cfg := rfl
@[simp] theorem State.readReg_pull (s : State) (r : Reg) : (s.readReg r).pull = s.pull := rfl
@[simp] theorem State.readReg_agenda (s : State) (r : Reg) : (s.readReg r).agenda = s.agenda := rfl
@[simp] theorem State.readReg_replies (s : State) (r : Reg) : (s.readReg r).replies = s.replies ++ [s.regValue r] := rfl
@[simp] theorem State.readReg_draws (s : State) (r : Reg) : (s.readReg r).draws = s.draws + 1 := rfl
@[simp] theorem State.readReg_program (s : State) (r : Reg) : (s.readReg r).program = s.program := rfl
@[simp] theorem State.readReg_results (s : State) (r : Reg) : (s.readReg r).results = s.results := rfl
@[simp] theorem State.readReg_resetting (s : State) (r : Reg) : (s.readReg r).resetting = s.resetting := rfl

/-! ## `remotePull` -/

@[simp] theorem State.remotePull_eng (s : State) (l : Line) (x : Bool) : (s.remotePull l x).eng = s.eng := rfl
@[simp] theorem State.remotePull_cfg (s : State) (l : Line) (x : Bool) : (s.remotePull l x).cfg = s.cfg := rfl
@[simp] theorem State.remotePull_pull (s : State) (l : Line) (x : Bool) : (s.remotePull l x).pull = s.pull.set l x := rfl
@[simp] theorem State.remotePull_agenda (s : State) (l : Line) (x : Bool) : (s.remotePull l x).agenda = s.agenda := rfl
@[simp] theorem State.remotePull_replies (s : State) (l : Line) (x : Bool) : (s.remotePull l x).replies = s.replies := rfl
@[simp] theorem State.remotePull_draws (s : State) (l : Line) (x : Bool) : (s.remotePull l x).draws = s.draws := rfl
@[simp] theorem State.remotePull_program (s : State) (l : Line) (x : Bool) : (s.remotePull l x).program = s.program := rfl
@[simp] theorem State.remotePull_results (s : State) (l : Line) (x : Bool) : (s.remotePull l x).results = s.results := rfl
@[simp] theorem State.remotePull_resetting (s : State) (l : Line) (x : Bool) : (s.remotePull l x).resetting = s.resetting := rfl

/-! ## `resetNow` -/

@[simp] theorem State.resetNow_eng (s : State) : s.resetNow.eng = s.eng.resetTo (Config.freeRx s.draws) (Config.freeRxacc s.draws) := rfl
@[simp] theorem State.resetNow_cfg (s : State) : (s.resetNow).cfg = s.cfg := rfl
@[simp] theorem State.resetNow_pull (s : State) : (s.resetNow).pull = s.pull := rfl
@[simp] theorem State.resetNow_agenda (s : State) : (s.resetNow).agenda = s.agenda := rfl
@[simp] theorem State.resetNow_replies (s : State) : (s.resetNow).replies = s.replies := rfl
@[simp] theorem State.resetNow_program (s : State) : (s.resetNow).program = s.program := rfl
@[simp] theorem State.resetNow_results (s : State) : (s.resetNow).results = s.results := rfl
@[simp] theorem State.resetNow_resetting (s : State) : s.resetNow.resetting = none := rfl
@[simp] theorem State.resetNow_draws (s : State) : s.resetNow.draws = s.draws + 1 := rfl

/-! ## `resetEnd` -/

@[simp] theorem State.resetEnd_eng (s : State) (l : Line) : (s.resetEnd l).eng = (s.eng.release l).resetTo (Config.freeRx s.draws) (Config.freeRxacc s.draws) := rfl
@[simp] theorem State.resetEnd_cfg (s : State) (l : Line) : (s.resetEnd l).cfg = s.cfg := rfl
@[simp] theorem State.resetEnd_pull (s : State) (l : Line) : (s.resetEnd l).pull = s.pull := rfl
@[simp] theorem State.resetEnd_agenda (s : State) (l : Line) : (s.resetEnd l).agenda = s.agenda := rfl
@[simp] theorem State.resetEnd_replies (s : State) (l : Line) : (s.resetEnd l).replies = s.replies := rfl
@[simp] theorem State.resetEnd_program (s : State) (l : Line) : (s.resetEnd l).program = s.program := rfl
@[simp] theorem State.resetEnd_results (s : State) (l : Line) : (s.resetEnd l).results = s.results := rfl
@[simp] theorem State.resetEnd_resetting (s : State) (l : Line) : (s.resetEnd l).resetting = none := rfl
@[simp] theorem State.resetEnd_draws (s : State) (l : Line) : (s.resetEnd l).draws = s.draws + 1 := rfl

/-! ## `afterLine` -/

@[simp] theorem State.afterLine_eng (s : State) (l : HostLine) (r : List HostLine) : (s.afterLine l r).eng = s.eng := by
  unfold State.afterLine; repeat' split
  all_goals rfl
@[simp] theorem State.afterLine_cfg (s : State) (l : HostLine) (r : List HostLine) : (s.afterLine l r).cfg = s.cfg := by
  unfold State.afterLine; repeat' split
  all_goals rfl
@[simp] theorem State.afterLine_pull (s : State) (l : HostLine) (r : List HostLine) : (s.afterLine l r).pull = s.pull := by
  unfold State.afterLine; repeat' split
  all_goals rfl
@[simp] theorem State.afterLine_agenda (s : State) (l : HostLine) (r : List HostLine) : (s.afterLine l r).agenda = s.agenda := by
  unfold State.afterLine; repeat' split
  all_goals rfl
@[simp] theorem State.afterLine_replies (s : State) (l : HostLine) (r : List HostLine) : (s.afterLine l r).replies = s.replies := by
  unfold State.afterLine; repeat' split
  all_goals rfl
@[simp] theorem State.afterLine_resetting (s : State) (l : HostLine) (r : List HostLine) : (s.afterLine l r).resetting = s.resetting := by
  unfold State.afterLine; repeat' split
  all_goals rfl
@[simp] theorem State.afterLine_draws (s : State) (l : HostLine) (r : List HostLine) : (s.afterLine l r).draws = s.draws := by
  unfold State.afterLine; repeat' split
  all_goals rfl

/-! ## `dropTurn` -/

@[simp] theorem dropTurn_eng (s : State) : (dropTurn s).eng = s.eng := rfl
@[simp] theorem dropTurn_cfg (s : State) : (dropTurn s).cfg = s.cfg := rfl
@[simp] theorem dropTurn_pull (s : State) : (dropTurn s).pull = s.pull := rfl
@[simp] theorem dropTurn_agenda (s : State) : (dropTurn s).agenda = s.agenda.tail := rfl
@[simp] theorem dropTurn_replies (s : State) : (dropTurn s).replies = s.replies := rfl
@[simp] theorem dropTurn_draws (s : State) : (dropTurn s).draws = s.draws := rfl
@[simp] theorem dropTurn_program (s : State) : (dropTurn s).program = s.program := rfl
@[simp] theorem dropTurn_results (s : State) : (dropTurn s).results = s.results := rfl
@[simp] theorem dropTurn_resetting (s : State) : (dropTurn s).resetting = s.resetting := rfl

end Sys2Proof.Machine
end

