-- ==== Sys2Proof/Laws/Ops.lean ====
section
/-! SUPPORT. What each shared operation can do: the cases of acceptance, delivery, completion, the register block and reset,
and the outcome of each instruction. -/

namespace Sys2Proof.Machine

/-! ## Commands -/

@[simp] theorem Engine.busy_none {e : Engine} (h : e.cur = none) : e.busy = false := by
  simp [Engine.busy, h]

@[simp] theorem Engine.busy_some {e : Engine} {c : Cmd} (h : e.cur = some c) : e.busy = true := by
  simp [Engine.busy, h]

theorem Engine.busy_iff (e : Engine) : e.busy = true ↔ e.cur ≠ none := by
  simp [Engine.busy, Option.isSome_iff_ne_none]

/-- R120 while BUSY. -/
theorem Engine.submit_busy {e : Engine} {p : Params} {c : Cmd} (h : e.cur ≠ none) :
    e.submit p c = e.raise c.word .ovr := by
  simp [Engine.submit, (Engine.busy_iff e).2 h]

/-- R120 while not BUSY, in phase. -/
theorem Engine.submit_accept {e : Engine} {p : Params} {c : Cmd} (h : e.cur = none) (hp : e.phase = c.entryPhase) :
    e.submit p c = e.accept p c := by
  simp [Engine.submit, h, hp]

/-- R120 while not BUSY, out of phase. -/
theorem Engine.submit_seq {e : Engine} {p : Params} {c : Cmd} (h : e.cur = none) (hp : e.phase ≠ c.entryPhase) :
    e.submit p c = e.raise c.word .seq := by
  simp [Engine.submit, h, hp]

theorem Engine.submitIllegal_busy {e : Engine} {w : Word} (h : e.cur ≠ none) :
    e.submitIllegal w = e.raise w .ovr := by
  simp [Engine.submitIllegal, (Engine.busy_iff e).2 h]

theorem Engine.submitIllegal_idle {e : Engine} {w : Word} (h : e.cur = none) :
    e.submitIllegal w = e.raise w .ill := by
  simp [Engine.submitIllegal, h]

/-- The commands by phase: START from Idle, the others from Active. -/
theorem Cmd.entryPhase_eq (c : Cmd) : c.entryPhase = if c = .start then .idle else .active := by
  cases c <;> rfl

/-- Delivery touches `err`, `rxacc` and `nsmp` alone. -/
theorem Engine.deliver_frame (e : Engine) (c : Option Cmd) (b : Bool) :
    e.deliver c b = { e with
      err := (e.deliver c b).err, rxacc := (e.deliver c b).rxacc, nsmp := (e.deliver c b).nsmp } := by
  rcases c with _ | c <;> [rfl; (cases c <;> rfl)]

/-- A fault sets its own flag and appends its event. -/
theorem Engine.raise_flag (e : Engine) (w : Word) (k j : RejectKind) :
    (e.raise w k).flag j = if j = k then true else e.flag j := by
  cases k <;> cases j <;> rfl

/-- A `STATUS` write clears each fault flag whose bit is 1. -/
theorem Engine.writeStatus_flag (e : Engine) (v : Word) (k : RejectKind) :
    (e.writeStatus v).flag k =
      (e.flag k && !v.getLsbD (match k with | .ill => 4 | .seq => 5 | .ovr => 6)) := by
  cases k <;> rfl

/-- The bits of a one-bit word. -/
theorem bitAt_getLsbD (n k : Nat) (b : Bool) (hn : n < 32) : (bitAt n b).getLsbD k = (decide (k = n) && b) := by
  unfold bitAt
  cases b with
  | false => simp
  | true =>
    simp only [if_true, BitVec.getLsbD_shiftLeft, BitVec.getLsbD_one, Bool.and_true]
    by_cases h : k = n
    · subst h; simp [hn]
    · simp [h]; omega

/-- 10_state.md R35, bit by bit. -/
theorem Engine.statusWord_getLsbD (e : Engine) (k : Nat) :
    e.statusWord.getLsbD k =
      (decide (k = 0) && e.busy || decide (k = 1) && e.phase == .active || decide (k = 2) && e.err ||
       decide (k = 3) && e.rxv || decide (k = 4) && e.ill || decide (k = 5) && e.seq || decide (k = 6) && e.ovr ||
       decide (k = 7) && e.drv.scl == .low || decide (k = 8) && e.drv.sda == .low) := by
  unfold Engine.statusWord
  simp only [BitVec.getLsbD_or]
  rw [bitAt_getLsbD _ _ _ (by decide), bitAt_getLsbD _ _ _ (by decide), bitAt_getLsbD _ _ _ (by decide),
    bitAt_getLsbD _ _ _ (by decide), bitAt_getLsbD _ _ _ (by decide), bitAt_getLsbD _ _ _ (by decide),
    bitAt_getLsbD _ _ _ (by decide), bitAt_getLsbD _ _ _ (by decide), bitAt_getLsbD _ _ _ (by decide)]

/-! ## Completion -/

/-- While micro-ops are left, nothing completes. -/
theorem State.finish_more {s : State} {c : Cmd} (h : s.eng.uq ≠ []) : s.finish c = s := by
  simp [State.finish, h]

/-- When none is left, the command completes. -/
theorem State.finish_last {s : State} {c : Cmd} (h : s.eng.uq = []) :
    s.finish c = { s with
      eng := s.eng.complete (Config.freeRxacc s.draws) c, draws := s.draws + 1 } := by
  simp [State.finish, h]

@[simp] theorem State.finish_cfg (s : State) (c : Cmd) : (s.finish c).cfg = s.cfg := by
  unfold State.finish; split <;> rfl

@[simp] theorem State.finish_pull (s : State) (c : Cmd) : (s.finish c).pull = s.pull := by
  unfold State.finish; split <;> rfl

@[simp] theorem State.finish_agenda (s : State) (c : Cmd) : (s.finish c).agenda = s.agenda := by
  unfold State.finish; split <;> rfl

@[simp] theorem State.finish_replies (s : State) (c : Cmd) : (s.finish c).replies = s.replies := by
  unfold State.finish; split <;> rfl

@[simp] theorem State.finish_program (s : State) (c : Cmd) : (s.finish c).program = s.program := by
  unfold State.finish; split <;> rfl

@[simp] theorem State.finish_results (s : State) (c : Cmd) : (s.finish c).results = s.results := by
  unfold State.finish; split <;> rfl

@[simp] theorem State.finish_resetting (s : State) (c : Cmd) : (s.finish c).resetting = s.resetting := by
  unfold State.finish; split <;> rfl

/-! ## Instructions -/

/-- The meaning of every command is R120. -/
theorem exec_command (c : Cmd) (s : State) :
    exec c.toInstr s = .next { s with eng := s.eng.submit s.cfg c } := by
  cases c <;> rfl

@[simp] theorem exec_rel (l : Line) (s : State) : exec (.rel l) s = .next { s with eng := s.eng.release l } := rfl

@[simp] theorem exec_low (l : Line) (s : State) : exec (.low l) s = .next { s with eng := s.eng.assertLow l } := rfl

@[simp] theorem exec_wait (n : Delay) (s : State) : exec (.wait n) s = .next { s with eng := s.eng.delay n } := rfl

/-- SMP SCL is delivered to no command. -/
@[simp] theorem exec_smp_scl (s : State) :
    exec (.smp .scl) s = .next { s with
      eng := (s.eng.setDrv .scl .rel).log (.sample .scl (s.sampled .scl)), draws := s.draws + 1 } := rfl

/-- SMP SDA is delivered to the command in execution. -/
@[simp] theorem exec_smp_sda (s : State) :
    exec (.smp .sda) s = .next { s with
      eng := ((s.eng.setDrv .sda .rel).log (.sample .sda (s.sampled .sda))).deliver s.eng.cur (s.sampled .sda)
      draws := s.draws + 1 } := rfl

/-- What a released line reads. -/
theorem State.sampled_released {s : State} {l : Line} (h : s.eng.drv.get l = .rel) : s.sampled l = !s.pull.get l := by
  simp [State.sampled, h]

/-- A micro-op leaves the course of the command alone, and the engine's surroundings. -/
theorem exec_uop_frame {u : Uop} {s t : State} (h : exec u.toInstr s = .next t) :
    t.cfg = s.cfg ∧ t.pull = s.pull ∧ t.agenda = s.agenda ∧ t.replies = s.replies ∧ t.program = s.program ∧
    t.results = s.results ∧ t.resetting = s.resetting ∧ t.eng.phase = s.eng.phase ∧ t.eng.cur = s.eng.cur ∧
    t.eng.uq = s.eng.uq ∧ t.eng.upc = s.eng.upc ∧ t.eng.rx = s.eng.rx ∧ t.eng.rxv = s.eng.rxv ∧ t.eng.ill = s.eng.ill ∧
    t.eng.seq = s.eng.seq ∧ t.eng.ovr = s.eng.ovr := by
  cases u with
  | rel l => cases h; repeat' constructor
  | low l => cases h; repeat' constructor
  | wait n => cases h; repeat' constructor
  | smp l =>
    cases l
    · cases h; repeat' constructor
    · simp only [Uop.toInstr, exec_smp_sda, Host.Outcome.next.injEq] at h
      subst h; simp

/-! ## The register block -/

@[simp] theorem locate_cmd (p : Params) : locate p p.engineBase 4 = .reg .cmd := by
  simp [locate]

@[simp] theorem locate_status (p : Params) : locate p (p.engineBase + 4) 4 = .reg .status := by
  simp [locate]

@[simp] theorem locate_rxdata (p : Params) : locate p (p.engineBase + 8) 4 = .reg .rxdata := by
  simp [locate]

@[simp] theorem locate_reserved (p : Params) : locate p (p.engineBase + 12) 4 = .reg .reserved := by
  simp [locate]

/-- The offset of a register (20_memory.md R51). -/
def Reg.offset : Reg → Nat
  | .cmd => 0
  | .status => 4
  | .rxdata => 8
  | .reserved => 12

/-- An admitted access is a 32-bit access at a register's address. -/
theorem locate_reg {p : Params} {a n : Nat} {r : Reg} (h : locate p a n = .reg r) :
    n = 4 ∧ a = p.engineBase + r.offset := by
  unfold locate at h
  split at h
  · cases h
  · rename_i hin
    split at h
    · rename_i h4
      refine ⟨h4, ?_⟩
      split at h <;> first | (cases h; simp only [Reg.offset]; omega) | cases h
    · cases h

/-! ## The host's program -/

/-- `WAITIDLE` is done exactly when the polled word has bit 0 clear. -/
theorem State.afterLine_waitIdle (s : State) (rest : List HostLine) :
    s.afterLine .waitIdle rest = if s.lastReply.getLsbD 0 then s else { s with program := rest } := rfl

/-- A line changes `program` and `results` alone, after its access. -/
theorem State.afterLine_frame (s : State) (l : HostLine) (rest : List HostLine) :
    s.afterLine l rest = { s with program := (s.afterLine l rest).program, results := (s.afterLine l rest).results } := by
  cases l with
  | waitIdle => simp only [State.afterLine]; split <;> rfl
  | _ => rfl

/-- What the last read returned. -/
@[simp] theorem State.lastReply_readReg (s : State) (r : Reg) : (s.readReg r).lastReply = s.regValue r := by
  simp [State.lastReply]

/-! ## Reset -/

/-- Reset with no command in execution takes effect at once. -/
theorem State.resetBegin_idle {s : State} {l : Line} (h : s.eng.cur = none) : s.resetBegin l = s.resetNow := by
  simp [State.resetBegin, h]

/-- Reset with a command in execution releases the first line. -/
theorem State.resetBegin_abort {s : State} {l : Line} (h : s.eng.cur ≠ none) (hr : s.resetting = none) :
    s.resetBegin l = { s with eng := s.eng.release l, resetting := some (otherLine l) } := by
  obtain ⟨c, hc⟩ := Option.ne_none_iff_exists'.1 h
  simp [State.resetBegin, hc, hr]

/-- Reset asserted again while a command is being aborted does nothing. -/
theorem State.resetBegin_again {s : State} {l k : Line} (h : s.eng.cur ≠ none) (hr : s.resetting = some k) :
    s.resetBegin l = s := by
  obtain ⟨c, hc⟩ := Option.ne_none_iff_exists'.1 h
  simp [State.resetBegin, hc, hr]

/-- The ways the reset input acts. -/
theorem State.resetBegin_cases (s : State) (l : Line) :
    (s.eng.cur = none ∧ s.resetBegin l = s.resetNow) ∨
    (s.eng.cur ≠ none ∧ s.resetting = none ∧
      s.resetBegin l = { s with eng := s.eng.release l, resetting := some (otherLine l) }) ∨
    (s.eng.cur ≠ none ∧ s.resetting ≠ none ∧ s.resetBegin l = s) := by
  by_cases h : s.eng.cur = none
  · exact .inl ⟨h, State.resetBegin_idle h⟩
  · cases hr : s.resetting with
    | none => exact .inr (.inl ⟨h, rfl, State.resetBegin_abort h hr⟩)
    | some k => exact .inr (.inr ⟨h, by simp, State.resetBegin_again h hr⟩)

end Sys2Proof.Machine
end

