-- ==== Sys2Proof/Laws/PerInstr.lean ====
section
/-! SUPPORT. Per instruction: the word of each instruction has the fixed bits of its row of
spec/opcode_table.json. -/

namespace Sys2Proof.Laws

/-- The row of an instruction: the number of bits of its word, the lowest fixed bit, the fixed bits above it. -/
def row : Instr → Nat × Nat × Nat
  | .start => (32, 0, 0x1000)
  | .sendByte _ => (32, 8, 0x20)
  | .rstart => (32, 0, 0x3000)
  | .readWord => (32, 0, 0x4000)
  | .stop => (32, 0, 0x5000)
  | .rel _ => (16, 1, 0)
  | .low _ => (16, 1, 0x2000)
  | .smp _ => (16, 1, 0x4000)
  | .wait _ => (16, 14, 3)

/-- The word fits its row's width and has its row's fixed bits. -/
def TableRow.Statement (i : Instr) : Prop :=
  encodeNat i < 2 ^ (row i).1 ∧ encodeNat i / 2 ^ (row i).2.1 = (row i).2.2

theorem TableRow.start : TableRow.Statement .start := by
  unfold TableRow.Statement; decide

theorem TableRow.sendByte (v : Byte) : TableRow.Statement (.sendByte v) := by
  have := v.isLt
  simp only [TableRow.Statement, encodeNat, row]
  omega

theorem TableRow.rstart : TableRow.Statement .rstart := by
  unfold TableRow.Statement; decide

theorem TableRow.readWord : TableRow.Statement .readWord := by
  unfold TableRow.Statement; decide

theorem TableRow.stop : TableRow.Statement .stop := by
  unfold TableRow.Statement; decide

theorem TableRow.rel (l : Line) : TableRow.Statement (.rel l) := by
  unfold TableRow.Statement; cases l <;> decide

theorem TableRow.low (l : Line) : TableRow.Statement (.low l) := by
  unfold TableRow.Statement; cases l <;> decide

theorem TableRow.smp (l : Line) : TableRow.Statement (.smp l) := by
  unfold TableRow.Statement; cases l <;> decide

theorem TableRow.wait (n : Delay) : TableRow.Statement (.wait n) := by
  have := n.inRange
  simp only [TableRow.Statement, encodeNat, row]
  omega

end Sys2Proof.Laws
end

