-- ==== Sys2Proof/Laws/Step.lean ====
section
/-! SUPPORT. What one step can do, said once. -/

namespace Sys2Proof.Machine

/-- The legal command words decode to commands. -/
theorem decodeCmd_command {w : Word} {i : Instr} (h : decodeCmd w = .ok i) : ∃ c : Cmd, i = c.toInstr := by
  unfold decodeCmd at h
  split at h
  · cases h
  · split at h
    · cases h
    · split at h
      · split at h <;> cases h; exact ⟨.start, rfl⟩
      · cases h; exact ⟨.sendByte _, rfl⟩
      · split at h <;> cases h; exact ⟨.rstart, rfl⟩
      · split at h <;> cases h; exact ⟨.readWord, rfl⟩
      · split at h <;> cases h; exact ⟨.stop, rfl⟩
      · cases h

/-- What becomes of the outcome `m` of a host access: it is the step's own, or the line of the host's program that made the
access goes on from it (30_encoding.md R88). -/
inductive AfterAccess (s m : State) : State → Prop where
  | own : nextTurn s ≠ .host → AfterAccess s m m
  | line (l : HostLine) (rest : List HostLine) : nextTurn s = .host → s.program = l :: rest →
      AfterAccess s m (m.afterLine l rest)

/-- A line of the host's program changes `program` and `results` alone. -/
theorem AfterAccess.frame {s m t : State} (h : AfterAccess s m t) :
    t = { m with program := t.program, results := t.results } := by
  cases h with
  | own => rfl
  | line l rest _ _ =>
    exact m.afterLine_frame l rest

/-- What becomes of an access's outcome keeps the engine. -/
theorem AfterAccess.eng_eq {s m t : State} (h : AfterAccess s m t) : t.eng = m.eng := by
  rw [h.frame]

/-- What becomes of an access's outcome keeps the parameters. -/
theorem AfterAccess.cfg_eq {s m t : State} (h : AfterAccess s m t) : t.cfg = m.cfg := by
  rw [h.frame]

/-- What becomes of an access's outcome keeps the remote device's drive. -/
theorem AfterAccess.pull_eq {s m t : State} (h : AfterAccess s m t) : t.pull = m.pull := by
  rw [h.frame]

/-- What becomes of an access's outcome keeps the agenda. -/
theorem AfterAccess.agenda_eq {s m t : State} (h : AfterAccess s m t) : t.agenda = m.agenda := by
  rw [h.frame]

/-- What becomes of an access's outcome keeps the replies. -/
theorem AfterAccess.replies_eq {s m t : State} (h : AfterAccess s m t) : t.replies = m.replies := by
  rw [h.frame]

/-- What becomes of an access's outcome keeps a reset in progress. -/
theorem AfterAccess.resetting_eq {s m t : State} (h : AfterAccess s m t) : t.resetting = m.resetting := by
  rw [h.frame]

/-- What becomes of an access's outcome keeps the draw counter. -/
theorem AfterAccess.draws_eq {s m t : State} (h : AfterAccess s m t) : t.draws = m.draws := by
  rw [h.frame]

/-- The ways a step can reach a next state. -/
inductive StepCase (s : State) : State → Prop where
  /-- the engine's turn, no command in execution (R187) -/
  | idle : nextTurn s = .engine → s.eng.cur = none → StepCase s (dropTurn s)
  /-- the engine's turn: the head of `uq` runs, and the command may complete (R121) -/
  | uop (c : Cmd) (u : Uop) (rest : List Uop) (m : State) : nextTurn s = .engine → s.eng.cur = some c →
      s.resetting = none → s.eng.uq = u :: rest → exec u.toInstr ((dropTurn s).popUop rest) = .next m →
      StepCase s (m.finish c)
  /-- the engine's turn: the end of the reset that aborts a command (R201) -/
  | resetEnd (l : Line) : nextTurn s = .engine → s.eng.cur ≠ none → s.resetting = some l →
      StepCase s ((dropTurn s).resetEnd l)
  /-- the host's turn, its program over -/
  | programOver : nextTurn s = .host → s.program = [] → StepCase s (dropTurn s)
  /-- a host read (R54) -/
  | read (a n : Nat) (r : Reg) (t : State) : nextAccess s = some (.read a n) → locate s.cfg a n = .reg r →
      AfterAccess s ((dropTurn s).readReg r) t → StepCase s t
  /-- a host write of a command's word to `CMD` (R120) -/
  | command (w : Word) (c : Cmd) (t : State) : nextAccess s = some (.write s.cfg.engineBase 4 w) →
      decodeCmd w = .ok c.toInstr → AfterAccess s { dropTurn s with eng := s.eng.submit s.cfg c } t → StepCase s t
  /-- a host write of an illegal word to `CMD` (R120) -/
  | illegal (w : Word) (x : DecodeError) (t : State) : nextAccess s = some (.write s.cfg.engineBase 4 w) →
      decodeCmd w = .error x → AfterAccess s { dropTurn s with eng := s.eng.submitIllegal w } t → StepCase s t
  /-- a host write to `STATUS` (R35) -/
  | status (v : Word) (t : State) : nextAccess s = some (.write (s.cfg.engineBase + 4) 4 v) →
      AfterAccess s { dropTurn s with eng := s.eng.writeStatus v } t → StepCase s t
  /-- a host write to `RXDATA` or the reserved offset (R37, R38) -/
  | ignored (r : Reg) (v : Word) (t : State) : nextAccess s = some (.write (s.cfg.engineBase + r.offset) 4 v) →
      r ≠ .cmd → r ≠ .status → AfterAccess s (dropTurn s) t → StepCase s t
  /-- the remote device changes its drive (R106) -/
  | remote (l : Line) (x : Bool) : nextTurn s = .remote l x → StepCase s ((dropTurn s).remotePull l x)
  /-- the reset input (R200, R201) -/
  | reset (l : Line) : nextTurn s = .reset l → StepCase s ((dropTurn s).resetBegin l)

/-- What the engine's turn can do. -/
theorem engineTurn_cases {s t : State} (h : engineTurn s = .next t) :
    (s.eng.cur = none ∧ t = s) ∨
    (∃ l, s.eng.cur ≠ none ∧ s.resetting = some l ∧ t = s.resetEnd l) ∨
    ∃ c u rest m, s.eng.cur = some c ∧ s.resetting = none ∧ s.eng.uq = u :: rest ∧
      exec u.toInstr (s.popUop rest) = .next m ∧ t = m.finish c := by
  unfold engineTurn at h
  split at h
  · cases h; exact .inl ⟨‹_›, rfl⟩
  · rename_i c hc hr
    unfold commandTurn at h
    split at h
    · cases h
    · rename_i u rest hq
      unfold andThen at h
      split at h
      · rename_i m hm
        cases h
        exact .inr (.inr ⟨c, u, rest, m, hc, hr, hq, hm, rfl⟩)
      · cases h
      · cases h
  · rename_i c l hc hr
    cases h
    exact .inr (.inl ⟨l, by simp [hc], hr, rfl⟩)

/-- What a write of a word to `CMD` can do. -/
theorem writeCmd_cases {w : Word} {s t : State} (h : writeCmd w s = .next t) :
    (∃ c : Cmd, decodeCmd w = .ok c.toInstr ∧ t = { s with eng := s.eng.submit s.cfg c }) ∨
    ∃ x, decodeCmd w = .error x ∧ t = { s with eng := s.eng.submitIllegal w } := by
  unfold writeCmd at h
  split at h
  · rename_i i hi
    obtain ⟨c, rfl⟩ := decodeCmd_command hi
    rw [exec_command] at h
    cases h
    exact .inl ⟨c, hi, rfl⟩
  · rename_i x hx
    cases h
    exact .inr ⟨x, hx, rfl⟩

/-- What a host access can do, and how the step goes on from it. -/
theorem accessTurn_case {s m t : State} {a : Access} (ha : nextAccess s = some a)
    (h : accessTurn a (dropTurn s) = .next m) (hm : AfterAccess s m t) : StepCase s t := by
  cases a with
  | read a n =>
    simp only [accessTurn, hostReadTurn, dropTurn_cfg] at h
    split at h
    · cases h; exact .read a n _ t ha ‹_› hm
    · cases h
    · cases h
  | write a n v =>
    simp only [accessTurn, hostWriteTurn, dropTurn_cfg] at h
    split at h
    · rename_i r hr
      obtain ⟨rfl, rfl⟩ := locate_reg hr
      cases r with
      | cmd =>
        obtain ⟨c, hc, rfl⟩ | ⟨x, hx, rfl⟩ := writeCmd_cases h
        · exact .command v c t ha hc hm
        · exact .illegal v x t ha hx hm
      | status => cases h; exact .status v t ha hm
      | rxdata => cases h; exact .ignored .rxdata v t ha (by decide) (by decide) hm
      | reserved => cases h; exact .ignored .reserved v t ha (by decide) (by decide) hm
    · cases h
    · cases h

/-- The inversion lemma of the machine: a step that reaches a next state is one of the cases. -/
theorem step_case {s t : State} (h : step s = .next t) : StepCase s t := by
  unfold step takeTurn at h
  cases ht : nextTurn s with
  | engine =>
    rw [ht] at h
    obtain ⟨hc, rfl⟩ | ⟨l, hc, hr, rfl⟩ | ⟨c, u, rest, m, hc, hr, hq, hm, rfl⟩ := engineTurn_cases h
    · exact .idle ht hc
    · exact .resetEnd l ht hc hr
    · exact .uop c u rest m ht hc hr hq hm
  | host =>
    rw [ht] at h
    simp only [hostTurn, dropTurn_program, dropTurn_cfg] at h
    split at h
    · cases h; exact .programOver ht ‹_›
    · rename_i l rest hp
      unfold andThen at h
      split at h
      · rename_i m hm
        cases h
        exact accessTurn_case (by simp [nextAccess, ht, hp]) hm (.line l rest ht hp)
      · cases h
      · cases h
  | hostRead a n =>
    rw [ht] at h
    exact accessTurn_case (by simp [nextAccess, ht]) h (.own (by simp [ht]))
  | hostWrite a n v =>
    rw [ht] at h
    exact accessTurn_case (by simp [nextAccess, ht]) h (.own (by simp [ht]))
  | remote l x => rw [ht] at h; cases h; exact .remote l x ht
  | reset l => rw [ht] at h; cases h; exact .reset l ht

/-! ## The forward equations -/

theorem nextTurn_cons {s : State} {a : Turn} {rest : List Turn} (h : s.agenda = a :: rest) : nextTurn s = a := by
  simp [nextTurn, h]

theorem nextTurn_nil {s : State} (h : s.agenda = []) : nextTurn s = .engine := by
  simp [nextTurn, h]

theorem dropTurn_cons {s : State} {a : Turn} {rest : List Turn} (h : s.agenda = a :: rest) :
    dropTurn s = { s with agenda := rest } := by
  simp [dropTurn, h]

/-- A host write of the word of a command. -/
theorem step_command {s : State} {w : Word} {c : Cmd} (ht : nextTurn s = .hostWrite s.cfg.engineBase 4 w)
    (hd : decodeCmd w = .ok c.toInstr) : step s = .next { dropTurn s with eng := s.eng.submit s.cfg c } := by
  simp [step, ht, takeTurn, accessTurn, hostWriteTurn, writeReg, writeCmd, hd, exec_command]

/-- A host write of an illegal word. -/
theorem step_illegal {s : State} {w : Word} {x : DecodeError} (ht : nextTurn s = .hostWrite s.cfg.engineBase 4 w)
    (hd : decodeCmd w = .error x) : step s = .next { dropTurn s with eng := s.eng.submitIllegal w } := by
  simp [step, ht, takeTurn, accessTurn, hostWriteTurn, writeReg, writeCmd, hd]

/-- A host read of a register. -/
theorem step_read {s : State} {a n : Nat} {r : Reg} (ht : nextTurn s = .hostRead a n) (hr : locate s.cfg a n = .reg r) :
    step s = .next ((dropTurn s).readReg r) := by
  simp [step, ht, takeTurn, accessTurn, hostReadTurn, hr]

/-- An engine step that runs the micro-op `u`. -/
theorem step_uop {s m : State} {c : Cmd} {u : Uop} {rest : List Uop} (ht : nextTurn s = .engine)
    (hc : s.eng.cur = some c) (hr : s.resetting = none) (hq : s.eng.uq = u :: rest)
    (hm : exec u.toInstr ((dropTurn s).popUop rest) = .next m) : step s = .next (m.finish c) := by
  simp [step, ht, takeTurn, engineTurn, commandTurn, hc, hr, hq, hm, andThen]

/-- The end of a reset that aborts a command. -/
theorem step_resetEnd {s : State} {l : Line} (ht : nextTurn s = .engine) (hc : s.eng.cur ≠ none)
    (hr : s.resetting = some l) : step s = .next ((dropTurn s).resetEnd l) := by
  obtain ⟨c, hc⟩ := Option.ne_none_iff_exists'.1 hc
  simp [step, ht, takeTurn, engineTurn, hc, hr]

/-- An access of a line of the host's program is always admitted. -/
theorem locate_access (l : HostLine) (p : Params) :
    (∃ r, l.access p = .read (p.engineBase + Reg.offset r) 4 ∧ locate p (p.engineBase + Reg.offset r) 4 = .reg r) ∨
    ∃ r v, l.access p = .write (p.engineBase + Reg.offset r) 4 v ∧ locate p (p.engineBase + Reg.offset r) 4 = .reg r := by
  cases l with
  | command c => exact .inr ⟨.cmd, c.word, rfl, by simp [Reg.offset]⟩
  | raw w => exact .inr ⟨.cmd, w, rfl, by simp [Reg.offset]⟩
  | waitIdle => exact .inl ⟨.status, rfl, by simp [Reg.offset]⟩
  | rdStatus => exact .inl ⟨.status, rfl, by simp [Reg.offset]⟩
  | rdRx => exact .inl ⟨.rxdata, rfl, by simp [Reg.offset]⟩
  | clrFault m => exact .inr ⟨.status, _, rfl, by simp [Reg.offset]⟩

end Sys2Proof.Machine
end

