-- ==== Sys2Proof/Laws/Run.lean ====
section
/-! SUPPORT. Runs: a run of `k + 1` steps is a step and a run of `k`; runs compose; what holds of reset and is kept by every
step holds of every reachable state. -/

namespace Sys2Proof

open Machine

@[simp] theorem runSteps_zero (s : State) : runSteps 0 s = .next s := rfl

/-- The first step of a run. -/
theorem runSteps_succ {s t : State} (k : Nat) (h : step s = .next t) : runSteps (k + 1) s = runSteps k t := by
  simp only [runSteps, h, runSteps.andThenRun]

/-- A run that reaches a next state begins with a step that does. -/
theorem runSteps_succ_inv {s t : State} {k : Nat} (h : runSteps (k + 1) s = .next t) :
    ∃ m, step s = .next m ∧ runSteps k m = .next t := by
  unfold runSteps runSteps.andThenRun at h
  split at h
  · rename_i m hm
    exact ⟨m, hm, h⟩
  · cases h
  · cases h

/-- Runs compose. -/
theorem runSteps_add {s m t : State} {j k : Nat} (h₁ : runSteps j s = .next m) (h₂ : runSteps k m = .next t) :
    runSteps (j + k) s = .next t := by
  induction j generalizing s with
  | zero => cases h₁; simpa using h₂
  | succ j ih =>
    obtain ⟨a, ha, hr⟩ := runSteps_succ_inv h₁
    rw [Nat.succ_add, runSteps_succ _ ha]
    exact ih hr

/-- What every step keeps, every run keeps. -/
theorem runSteps_keeps {P : State → Prop} (hstep : ∀ s t, P s → step s = .next t → P t) {k : Nat} {s t : State}
    (hs : P s) (h : runSteps k s = .next t) : P t := by
  induction k generalizing s with
  | zero => cases h; exact hs
  | succ k ih =>
    obtain ⟨m, hm, hr⟩ := runSteps_succ_inv h
    exact ih (hstep s m hs hm) hr

/-- What holds of every reset state and every step keeps holds of every reachable state. -/
theorem reachable_induction {P : State → Prop} (h0 : ∀ p agenda, P (State.resetWith p agenda))
    (hstep : ∀ s t, P s → step s = .next t → P t) {s : State} (h : Reachable s) : P s := by
  obtain ⟨p, agenda, k, _, hr⟩ := h
  exact runSteps_keeps hstep (h0 p agenda) hr

end Sys2Proof
end

