-- ==== Sys2Proof/Tests/Slice0.lean ====
section
/-! SUPPORT. Tests against the vectors of 95_test_vectors.md, the smoke test of WellFormed, and for every statement with
hypotheses a witness that meets them together. -/

namespace Sys2Proof.Tests

set_option maxRecDepth 8000

open Machine

/-! ## Small states -/

/-- The reset state with the engine `e` and the agenda `ag`, at the default parameters. -/
def st (e : Engine) (ag : List Turn) : State := { State.resetWith defaultParams ag with eng := e }

/-- The same with the host's program `pr`. -/
def stp (e : Engine) (ag : List Turn) (pr : List HostLine) : State := { st e ag with program := pr }

/-- Active after START, `err` as given. -/
def active (err : Bool) : Engine := { Engine.initial with phase := .active, drv := ⟨.low, .low⟩, err := err }

/-- Inside the command `c`, before its micro-op `k`. -/
def inside (c : Cmd) (k : Nat) : Engine :=
  { Engine.initial with
    phase := c.entryPhase
    drv := replay (if c = .start then Pads.released else ⟨.low, .low⟩) ((expand defaultParams c).take k)
    cur := some c
    uq := (expand defaultParams c).drop k
    upc := k
    nsmp := ((expand defaultParams c).take k).count (.smp .sda) }

/-- A reset is aborting SEND_BYTE, and has released SCL. -/
def aborting : State :=
  { st { inside (.sendByte 0#8) 0 with drv := ⟨.rel, .low⟩ } [] with resetting := some .sda }

/-- What a test looks at in an outcome. -/
def see {α : Type} (o : Host.Outcome State Fault Refusal) (f : State → α) : Option α :=
  match o with
  | .next t => some (f t)
  | .fault _ => none
  | .refused _ => none

/-- The STATUS word after an outcome. -/
def status (o : Host.Outcome State Fault Refusal) : Option Word := see o (fun t => t.eng.statusWord)

/-- The step stopped. -/
def stops (o : Host.Outcome State Fault Refusal) : Bool := (status o).isNone

/-! ## WellFormed -/

theorem test_wait_zero_ill_formed : delayOk 0 = false ∧ Delay.ofNat? 0 = none := by decide

theorem test_wait_too_long_ill_formed : delayOk 16384 = false ∧ Delay.ofNat? 16384 = none := by decide

theorem test_wait_bounds_well_formed :
    (delayOk 1 = true ∧ Delay.ofNat? 1 = some ⟨1, by decide⟩) ∧
    (delayOk 16383 = true ∧ Delay.ofNat? 16383 = some ⟨16383, by decide⟩) := by decide

theorem test_default_params_ok : defaultParams.ok = true := by decide

theorem test_params_base_unaligned_refused : Params.ok { defaultParams with engineBase := 8 } = false := by decide

theorem test_params_zero_quarter_refused : Params.ok { defaultParams with tQuarter := 0 } = false := by decide

/-! ## Decoding: the words of 30_encoding.md R81 and R86, and the vectors V-DEC and V-LD9 -/

theorem test_decode_start : decodeCmd 0b00000000000000000001000000000000#32 = .ok .start := by decide

theorem test_decode_send_byte : decodeCmd 0b00000000000000000010000010100101#32 = .ok (.sendByte 0xA5#8) := by decide

theorem test_decode_rstart : decodeCmd 0b00000000000000000011000000000000#32 = .ok .rstart := by decide

theorem test_decode_read_word : decodeCmd 0b00000000000000000100000000000000#32 = .ok .readWord := by decide

theorem test_decode_stop : decodeCmd 0b00000000000000000101000000000000#32 = .ok .stop := by decide

theorem test_decode_rel : decodeUop 0b0000000000000001#16 = .ok (.rel .sda) := by decide

theorem test_decode_low : decodeUop 0b0100000000000000#16 = .ok (.low .scl) := by decide

theorem test_decode_smp : decodeUop 0b1000000000000001#16 = .ok (.smp .sda) := by decide

theorem test_decode_wait : decodeUop 0b1100000001011010#16 = .ok (.wait ⟨90, by decide⟩) := by decide

theorem test_decode_illegal :
    decodeCmd 0x00000000#32 = .error .noSuchOp ∧ decodeCmd 0x00000FFF#32 = .error .reservedMid ∧
    decodeCmd 0x0000F000#32 = .error .noSuchOp ∧ decodeCmd 0x000030FF#32 = .error .dataNotZero ∧
    decodeCmd 0x00002F00#32 = .error .reservedMid ∧ decodeCmd 0x80005000#32 = .error .reservedHigh := by decide

theorem test_decode_no_micro_op :
    decodeUop 0xC000#16 = .error .waitZero ∧ decodeUop 0x0002#16 = .error .uopReserved := by decide

theorem test_decode_bytes : decodeBytes [0xA5#8, 0x20#8, 0#8, 0#8] = .ok (.sendByte 0xA5#8) ∧
    decodeBytes [0x5A#8, 0xC0#8] = .ok (.wait ⟨90, by decide⟩) ∧ decodeBytes [0#8] = .error .badLength := by decide

/-! ## One step: V-LD, V-ST, V-SB, V-RS, V-RW, V-SP -/

/-- V-LD1, V-LD2 -/
theorem test_rel : see (exec (.rel .sda) (st (active false) [])) (fun t => (t.eng.drv, t.eng.hist)) =
    some (⟨.low, .rel⟩, [.reset, .drive .sda .rel]) := by decide

/-- V-LD3 -/
theorem test_low : see (exec (.low .scl) State.reset) (fun t => (t.eng.drv, t.eng.statusWord)) =
    some (⟨.low, .rel⟩, 0x80#32) := by decide

/-- V-LD4 -/
theorem test_smp_high : see (exec (.smp .sda) State.reset) (fun t => t.eng.hist) =
    some [.reset, .sample .sda true] := by decide

/-- V-LD5 -/
theorem test_smp_low : see (exec (.smp .sda) (State.reset.remotePull .sda true)) (fun t => t.eng.hist) =
    some [.reset, .sample .sda false] := by decide

/-- V-LD8 -/
theorem test_wait : see (exec (.wait ⟨16383, by decide⟩) (st (active false) [])) (fun t => (t.eng.drv, t.eng.tmr, t.eng.hist)) =
    some (⟨.low, .low⟩, 0, [.reset, .wait ⟨16383, by decide⟩]) := by
  simp [exec, execWait, see, Engine.delay, Engine.log, st, active, Engine.initial, State.resetWith]

/-- V-ST1: STATUS just after the write. -/
theorem test_start : status (exec .start State.reset) = some 0x00000001#32 := by decide

/-- V-ST2 -/
theorem test_start_out_of_phase : status (exec .start (st (active false) [])) = some 0x000001A2#32 := by decide

/-- V-SB8: the first micro-op of each cell of SEND_BYTE 0x01. -/
theorem test_send_byte_cells :
    (List.range 8).map (fun k => (expand defaultParams (.sendByte 0x01#8))[6 * k]?) =
      [some (.low .sda), some (.low .sda), some (.low .sda), some (.low .sda), some (.low .sda), some (.low .sda),
       some (.low .sda), some (.rel .sda)] := by decide

/-- V-SB2: the acknowledge sample is 1. -/
theorem test_send_byte_nack : see (exec (.smp .sda) (st (inside (.sendByte 0xA5#8) 52) [])) (fun t => t.eng.err) =
    some true := by decide

/-- V-RS: RSTART's micro-op words. -/
theorem test_rstart_words :
    (expand defaultParams .rstart).map (fun u => encodeNat u.toInstr) =
      [0x0001, 0xC008, 0x0000, 0xC002, 0x4001, 0xC002, 0x4000, 0xC010] := by decide

/-- V-RS5 -/
theorem test_rstart_in_idle : status (exec .rstart State.reset) = some 0x00000020#32 := by decide

/-- V-RW3: samples 10000000 00000001 assemble to 0x0180. -/
theorem test_read_word_assembly :
    assembleWord 0b1000000000000001#16 = 0x0180#16 ∧
    wordOfSamples [true, false, false, false, false, false, false, false,
      false, false, false, false, false, false, false, true] = 0x0180#16 := by decide

/-- V-RW14: STATUS just after READ_WORD is accepted from STATUS 0x0000018A. -/
theorem test_read_word_accepted :
    status (exec .readWord (st { active false with rxv := true } [])) = some 0x00000183#32 := by decide

/-- V-SP: STOP's micro-op words. -/
theorem test_stop_words :
    (expand defaultParams .stop).map (fun u => encodeNat u.toInstr) = [0x0000, 0xC001, 0x0001, 0xC01E] := by decide

/-- V-SP5: STOP's last step after READ_WORD keeps `rxv`. -/
theorem test_stop_done :
    status (step (st { inside .stop 3 with rxv := true } [])) = some 0x00000008#32 := by decide

/-- V-T2: with `N_ACK_HOLD = 1`, SEND_BYTE is 36 T. -/
theorem test_ack_hold_parameter : nominal (expand { defaultParams with nAckHold := ⟨1, by decide⟩ } (.sendByte 0xA5#8)) = 36 := by decide

/-! ## Faults, registers, reset -/

/-- V-F4: OVR only. -/
theorem test_overrun : status (step (st (inside .start 0) [.hostWrite 0 4 0#32])) = some 0x00000041#32 := by decide

/-- V-F2: ILL beside SEQ. -/
theorem test_illegal_word :
    status (step (st { Engine.initial with seq := true } [.hostWrite 0 4 0x1001#32])) = some 0x00000030#32 := by decide

/-- V-F6 -/
theorem test_status_w1c :
    status (step (st { Engine.initial with ill := true, seq := true, ovr := true } [.hostWrite 4 4 0x10#32])) =
      some 0x00000060#32 := by decide

/-- V-F7 -/
theorem test_status_write_zero :
    status (step (st { Engine.initial with ill := true, seq := true, ovr := true } [.hostWrite 4 4 0xFF8F#32])) =
      some 0x00000070#32 := by decide

/-- V-F13 -/
theorem test_rxdata : see (step (st { Engine.initial with rx := 0x1234#16, rxv := true } [.hostRead 8 4]))
    (fun t => t.replies) = some [0x00001234#32] := by decide

/-- U2: an 8-bit access and a misaligned one are refused. -/
theorem test_narrow_access_refused : stops (step (st Engine.initial [.hostRead 4 1])) = true ∧
    stops (step (st Engine.initial [.hostWrite 2 4 0#32])) = true := by decide

/-- R88: `WAITIDLE` is not done while BUSY, and is done when `s[0] = 0`. -/
theorem test_wait_idle :
    see (step (stp (inside .stop 0) [.host] [.waitIdle, .rdStatus])) (fun t => t.program) = some [.waitIdle, .rdStatus] ∧
    see (step (stp (active true) [.host] [.waitIdle, .rdStatus])) (fun t => t.program) = some [.rdStatus] := by decide

/-- R88: `RDRX` takes bits 15:0. -/
theorem test_rdrx : see (step (stp { Engine.initial with rx := 0x1234#16, rxv := true } [.host] [.rdRx]))
    (fun t => (t.results, t.program)) = some ([.rx 0x1234#16], []) := by decide

/-- R88: `CLRFAULT` writes `m & 0x70`: an `m` of 0xFFFFFF1F clears ILL alone. -/
theorem test_clrfault : see (step (stp { Engine.initial with ill := true, seq := true, ovr := true } [.host]
    [.clrFault 0xFFFFFF1F#32])) (fun t => (t.eng.statusWord, t.program)) = some (0x60#32, []) := by decide

/-- V-R2, the first release of the two orders: SEND_BYTE is still in execution, with the other line low. -/
theorem test_reset_first_release :
    see (step (st (inside (.sendByte 0#8) 0) [.reset .scl])) (fun t => (t.eng.hist, t.eng.drv, t.resetting)) =
      some ([.reset, .drive .scl .rel], ⟨.rel, .low⟩, some .sda) ∧
    see (step (st (inside (.sendByte 0#8) 0) [.reset .sda])) (fun t => (t.eng.hist, t.eng.drv, t.resetting)) =
      some ([.reset, .drive .sda .rel], ⟨.low, .rel⟩, some .scl) := by decide

/-- V-R2, the second release, and reset takes effect. -/
theorem test_reset_second_release :
    see (step aborting)
      (fun t => (t.eng.hist, t.eng.statusWord, t.resetting)) = some ([.reset, .drive .sda .rel, .reset], 0#32, none) := by
  decide

/-- The words of the table run as the first instruction after reset (WAIT with count 1: `WAIT 0` is no micro-op). -/
theorem test_fetch_words :
    ([(32, 0x1000), (32, 0x2000), (32, 0x3000), (32, 0x4000), (32, 0x5000), (16, 0x0000), (16, 0x4000), (16, 0x8000),
      (16, 0xC001)].all (fun x => !stops (step (State.reset.withFetchWord x.1 x.2)))) = true := by decide

/-- A word that is no micro-op does not run. -/
theorem test_fetch_wait_zero_stops : stops (step (State.reset.withFetchWord 16 0xC000)) = true := by decide

/-! ## Witnesses of the hypotheses -/

theorem wit_reset_inv : Inv State.reset where
  noQueue := by decide
  idleLines := by decide
  activeLines := by decide
  running := by intro c h; cases h
  aborting := by intro l h; cases h
  timer := by decide
  samples := by decide

/-- A state with no command in execution meets the invariant. -/
theorem inv_quiet (e : Engine) (ag : List Turn) (hc : e.cur = none) (hq : e.uq = [])
    (hi : e.phase = .idle → e.drv = Pads.released) (ha : e.phase = .active → e.drv.scl = .low) (ht : e.tmr = 0)
    (hn : e.nsmp ≤ 16) : Inv (st e ag) where
  noQueue := fun _ => hq
  idleLines := fun _ => hi
  activeLines := fun _ => ha
  running := by
    intro c h
    have h' : e.cur = some c := h
    rw [hc] at h'; cases h'
  aborting := by intro l h; cases h
  timer := ht
  samples := hn

theorem wit_active_inv (ag : List Turn) : Inv (st (active false) ag) :=
  inv_quiet _ _ rfl rfl (by intro h; cases h) (fun _ => rfl) rfl (by decide)

/-- A state inside a command meets the invariant. -/
theorem inv_inside (c : Cmd) (k : Nat) (ag : List Turn) (hk : k < (expand defaultParams c).length)
    (hn : ((expand defaultParams c).take k).count (.smp .sda) ≤ 16) : Inv (st (inside c k) ag) where
  noQueue := by intro h; cases h
  idleLines := by intro h; cases h
  activeLines := by intro h; cases h
  running := by
    intro d h _
    cases h
    refine ⟨rfl, rfl, hk, ⟨if c = .start then Pads.released else ⟨.low, .low⟩, ?_, rfl⟩, fun _ => rfl, fun _ => rfl,
      fun _ => rfl⟩
    cases c <;> rfl
  aborting := by intro l h; cases h
  timer := rfl
  samples := hn

/-- The invariant does not look at the host's program. -/
theorem inv_program {s : State} (h : Inv s) (pr : List HostLine) : Inv { s with program := pr } :=
  ⟨h.noQueue, h.idleLines, h.activeLines, h.running, h.aborting, h.timer, h.samples⟩

theorem inv_aborting : Inv aborting where
  noQueue := by intro h; cases h
  idleLines := by intro h; cases h
  activeLines := by intro h; cases h
  running := by intro c _ h; cases h
  aborting := fun l h => by
    have : l = .sda := by simpa [aborting] using h.symm
    subst this
    exact ⟨fun h => (by cases h), rfl⟩
  timer := rfl
  samples := by decide

/-- IllegalWords, third clause. -/
theorem wit_illegal_word : decodeCmd 0x00010000#32 = .error .reservedHigh ∧
    (st Engine.initial [.hostWrite 0 4 0x00010000#32]).eng.cur = none ∧
    (st Engine.initial [.hostWrite 0 4 0x00010000#32]).agenda =
      .hostWrite (st Engine.initial [.hostWrite 0 4 0x00010000#32]).cfg.engineBase 4 0x00010000#32 :: [] := by decide

/-- IllegalWords and OneWordPerInstr: each case of illegality at a boundary, and the legal words beside it. -/
theorem wit_word_cases : decodeCmd 0x00010000#32 = .error .reservedHigh ∧ decodeCmd 0x00000100#32 = .error .reservedMid ∧
    decodeCmd 0x00000000#32 = .error .noSuchOp ∧ decodeCmd 0x00006000#32 = .error .noSuchOp ∧
    decodeCmd 0x00005001#32 = .error .dataNotZero ∧ decodeCmd 0x000020FF#32 = .ok (.sendByte 0xFF#8) := by decide

/-- RelCompletes, LowCompletes: the outcome is a next state. -/
theorem wit_rel_low_next : stops (exec (.rel .sda) State.reset) = false ∧ stops (exec (.low .sda) State.reset) = false := by
  decide

/-- SmpCompletes: each clause, for a released line. -/
theorem wit_smp_released : State.reset.eng.drv.get .scl = .rel ∧
    (st (inside (.sendByte 0#8) 52) []).eng.drv.get .sda = .rel ∧
    (st (inside (.sendByte 0#8) 52) []).eng.cur = some (.sendByte 0#8) ∧
    (st (inside .readWord 4) []).eng.drv.get .sda = .rel ∧ (st (inside .readWord 4) []).eng.cur = some .readWord ∧
    (st (inside .readWord 4) []).eng.nsmp = 0 ∧ (st (inside .readWord 117) []).eng.nsmp = 15 ∧
    (st (inside .rstart 1) []).eng.drv.get .sda = .rel ∧ (st (inside .rstart 1) []).eng.cur = some .rstart := by decide

/-- SmpCompletes: a line driven low. -/
theorem wit_smp_driven : (st (active false) []).eng.drv.get .sda = .low ∧ (st (active false) []).eng.drv.get .scl = .low := by
  decide

/-- StartCompletes. -/
theorem wit_idle_quiet : State.reset.eng.cur = none ∧ State.reset.eng.phase = .idle := by decide

/-- SendByteCompletes, RstartCompletes, ReadWordCompletes, StopCompletes. -/
theorem wit_active_quiet : (st (active false) []).eng.cur = none ∧ (st (active false) []).eng.phase = .active := by decide

/-- CommandWrite: each clause. -/
theorem wit_command_write :
    (st (inside .start 0) [.hostWrite 0 4 0x5000#32]).eng.cur ≠ none ∧ decodeCmd 0#32 = .error .noSuchOp ∧
    decodeCmd 0x1000#32 = .ok (Cmd.toInstr .start) ∧ (active false).phase ≠ .idle ∧ Engine.initial.phase ≠ .active ∧
    decodeCmd 0x5000#32 = .ok (Cmd.toInstr .stop) ∧
    (st Engine.initial [.hostWrite 0 4 0#32]).agenda = .hostWrite defaultParams.engineBase 4 0#32 :: [] := by decide

/-- AcceptanceVisibleAtOnce. -/
theorem wit_acceptance : Engine.initial.cur = none ∧ Engine.initial.phase = Cmd.entryPhase .start ∧
    (active false).cur = none ∧ (active false).phase = Cmd.entryPhase .stop ∧ Cmd.word .start = 0x1000#32 := by decide

/-- BusyClearsOnlyAtCompletion: both ways in which a command stops being in execution, and a later STATUS read. -/
theorem wit_busy_clears :
    see (step (st (inside .stop 3) [])) (fun t => (t.eng.cur, (t.regValue .status).getLsbD 0)) = some (none, false) ∧
    see (step { st (inside .stop 3) [] with resetting := some .sda }) (fun t => t.eng.cur) = some none ∧
    (st (inside .stop 3) []).eng.cur = some .stop := by decide

/-- HostLinesMean: one state per clause. -/
theorem wit_host_lines :
    (stp (active false) [.host] [.command .stop]).agenda = .host :: [] ∧
    (stp (active false) [.host] [.command .stop]).program = .command .stop :: [] ∧
    (stp (active false) [.host] [.raw 0#32, .rdRx]).program = .raw 0#32 :: [.rdRx] ∧
    (stp (active false) [.host] [.waitIdle]).program = .waitIdle :: [] ∧
    (stp (active false) [.host] [.rdStatus]).program = .rdStatus :: [] ∧
    (stp { active false with rxv := true } [.host] [.rdRx]).program = .rdRx :: [] ∧
    (stp { active false with rxv := true } [.host] [.rdRx]).eng.rxv = true ∧
    (stp (active false) [.host] [.clrFault 0x70#32]).program = .clrFault 0x70#32 :: [] ∧
    (stp (active false) [.host] []).program = [] := by decide

/-- WaitIdleWaitsForCompletion, first clause: STOP has two micro-ops left, and the engine takes one step among two polls. -/
theorem wit_wait_idle_waits : Inv (stp (inside .stop 2) [.host, .engine, .host] [.waitIdle]) ∧
    (stp (inside .stop 2) [.host, .engine, .host] [.waitIdle]).eng.cur = some .stop ∧
    (∀ a ∈ [Turn.host, .engine, .host], a = .engine ∨ a = .host) ∧
    [Turn.host, .engine, .host].count .engine < (stp (inside .stop 2) [.host, .engine, .host] [.waitIdle]).eng.uq.length :=
  ⟨inv_program (inv_inside _ _ _ (by decide) (by decide)) _, rfl, by decide, by decide⟩

/-- WaitIdleWaitsForCompletion, second clause: STOP has two micro-ops left. -/
theorem wit_wait_idle_done : Inv (stp (inside .stop 2) ([.host, .engine] ++ [.engine, .host]) [.waitIdle]) ∧
    (stp (inside .stop 2) ([.host, .engine] ++ [.engine, .host]) [.waitIdle]).agenda = [.host, .engine] ++ [.engine, .host] ∧
    (∀ a ∈ [Turn.host, .engine], a = .engine ∨ a = .host) ∧
    [Turn.host, .engine].count .engine + 1 = (stp (inside .stop 2) ([.host, .engine] ++ [.engine, .host]) [.waitIdle]).eng.uq.length :=
  ⟨inv_program (inv_inside _ _ _ (by decide) (by decide)) _, rfl, by decide, by decide⟩

/-- StepRunsWrittenCommand. -/
theorem wit_written_command :
    (st Engine.initial [.hostWrite 0 4 0x1000#32]).agenda = .hostWrite defaultParams.engineBase 4 0x1000#32 :: [] ∧
    decodeCmd 0x1000#32 = .ok .start := by decide

/-- StepRunsHeadMicroOp: more micro-ops left, and none left; nothing on the agenda, and an engine's turn on it. -/
theorem wit_head_micro_op : (st (inside .stop 0) []).eng.cur = some .stop ∧
    (st (inside .stop 0) []).eng.uq = .rel .scl :: [.wait ⟨1, by decide⟩, .rel .sda, .wait ⟨30, by decide⟩] ∧
    (st (inside .stop 3) [.engine]).eng.uq = .wait ⟨30, by decide⟩ :: [] ∧
    (st (inside .stop 3) [.engine]).agenda = .engine :: [] ∧ (st (inside .stop 3) [.engine]).resetting = none := by
  decide

/-- IdleEngineDoesNothing. -/
theorem wit_idle_engine : State.reset.agenda = [] ∧ State.reset.eng.cur = none := by decide

/-- StepOutsideEngine: a step that changes the remote device's drive, one that returns a reply, one of the host's program. -/
theorem wit_outside_engine :
    see (step (st Engine.initial [.remote .sda true])) (fun t => t.pull) = some ⟨false, true⟩ ∧
    nextTurn (st Engine.initial [.remote .sda true]) = .remote .sda true ∧
    see (step (st Engine.initial [.hostRead 4 4])) (fun t => t.replies) = some [0#32] ∧
    see (step (stp Engine.initial [.host] [.rdStatus])) (fun t => (t.program, t.results)) = some ([], [.status 0#32]) := by
  decide

/-- OnlyBadAccessesStop: a state that meets the invariant and whose step stops. -/
theorem wit_bad_access : Inv (st Engine.initial [.hostRead 16 4]) ∧ step (st Engine.initial [.hostRead 16 4]) =
    .fault .noSuchAddress :=
  ⟨inv_quiet _ _ rfl rfl (fun _ => rfl) (by intro h; cases h) rfl (by decide), rfl⟩

/-- StatusRegister, CmdRxdataReserved. -/
theorem wit_register_agendas : (st Engine.initial [.hostRead 4 4]).agenda = .hostRead (defaultParams.engineBase + 4) 4 :: [] ∧
    (st Engine.initial [.hostWrite 4 4 0x70#32]).agenda = .hostWrite (defaultParams.engineBase + 4) 4 0x70#32 :: [] ∧
    (st Engine.initial [.hostRead 0 4]).agenda = .hostRead defaultParams.engineBase 4 :: [] ∧
    (st Engine.initial [.hostRead 8 4]).agenda = .hostRead (defaultParams.engineBase + 8) 4 :: [] ∧
    (st Engine.initial [.hostRead 12 4]).agenda = .hostRead (defaultParams.engineBase + 12) 4 :: [] ∧
    (st Engine.initial [.hostWrite 12 4 1#32]).agenda = .hostWrite (defaultParams.engineBase + 12) 4 1#32 :: [] ∧
    Engine.initial.rxv = false ∧ ({ Engine.initial with rxv := true } : Engine).rxv = true := by decide

/-- AccessAdmission: the first and last offset, admitted and not. -/
theorem wit_admission :
    (st Engine.initial [.hostRead 0 4]).agenda = .hostRead (defaultParams.engineBase + 0) 4 :: [] ∧
    (st Engine.initial [.hostWrite 12 4 0#32]).agenda = .hostWrite (defaultParams.engineBase + 12) 4 0#32 :: [] ∧
    (st Engine.initial [.hostRead 15 4]).agenda = .hostRead (defaultParams.engineBase + 15) 4 :: [] ∧
    (st Engine.initial [.hostWrite 0 2 0#32]).agenda = .hostWrite (defaultParams.engineBase + 0) 2 0#32 :: [] := by decide

/-- AccessOutsideBlockFaults: below and above. -/
theorem wit_outside_block :
    defaultParams.engineBase + 16 ≤ 16 ∧
    15 < (State.resetWith { defaultParams with engineBase := 16 } [.hostRead 15 4]).cfg.engineBase ∧
    (st Engine.initial [.hostRead 16 4]).agenda = .hostRead 16 4 :: [] := by decide

/-- HostCannotDisturbCommand: a read, a write of `CMD`, a write elsewhere, a line of the host's program. -/
theorem wit_busy_access :
    status (step (st (inside .start 0) [.hostRead 4 4])) = some 0x1#32 ∧
    status (step (st (inside .start 0) [.hostWrite 0 4 0x1000#32])) = some 0x41#32 ∧
    status (step (st (inside .start 0) [.hostWrite 4 4 0x70#32])) = some 0x1#32 ∧
    (st (inside .start 0) [.hostRead 4 4]).eng.cur ≠ none ∧
    nextAccess (st (inside .start 0) [.hostRead 4 4]) = some (.read 4 4) ∧
    nextAccess (st (inside .start 0) [.hostWrite 0 4 0x1000#32]) = some (.write 0 4 0x1000#32) ∧
    nextAccess (stp (inside .start 0) [.host] [.command .stop]) = some (.write defaultParams.engineBase 4 0x5000#32) := by
  decide

/-- FaultFlagWriters: a flag set, cleared by a write, cleared by reset. -/
theorem wit_fault_flags :
    see (step (st Engine.initial [.hostWrite 0 4 0#32])) (fun t => t.eng.flag .ill) = some true ∧
    see (step (st Engine.initial [.hostWrite 0 4 0x5000#32])) (fun t => t.eng.flag .seq) = some true ∧
    see (step (st (inside .start 0) [.hostWrite 0 4 0#32])) (fun t => t.eng.flag .ovr) = some true ∧
    see (step (st { Engine.initial with ovr := true } [.hostWrite 4 4 0x40#32])) (fun t => t.eng.flag .ovr) = some false ∧
    see (step (st { Engine.initial with ovr := true } [.reset .scl])) (fun t => t.eng.flag .ovr) = some false := by decide

/-- ErrorFlagWriters: set by a sample, cleared by START, cleared by reset. -/
theorem wit_error_flag :
    see (step (st (inside (.sendByte 0#8) 52) [])) (fun t => t.eng.err) = some true ∧
    see (step (st { Engine.initial with err := true } [.hostWrite 0 4 0x1000#32])) (fun t => t.eng.err) = some false ∧
    see (step (st (active true) [.reset .sda])) (fun t => t.eng.err) = some false := by decide

/-- PhaseWriters, ActiveClockLow second clause: START and STOP complete; reset. -/
theorem wit_phase :
    see (step (st (inside .start 6) [])) (fun t => (t.eng.phase, t.eng.cur)) = some (.active, none) ∧
    see (step (st (inside .stop 3) [])) (fun t => (t.eng.phase, t.eng.cur)) = some (.idle, none) ∧
    see (step (st (active false) [.reset .scl])) (fun t => t.eng.phase) = some .idle := by decide

/-- ReadResultWriters: READ_WORD completes; START and READ_WORD clear `rxv`; reset. -/
theorem wit_read_result :
    see (step (st { inside .readWord 127 with rxacc := 1#16 } [])) (fun t => (t.eng.rx, t.eng.rxv)) = some (0x100#16, true) ∧
    see (step (st { Engine.initial with rxv := true } [.hostWrite 0 4 0x1000#32])) (fun t => t.eng.rxv) = some false ∧
    see (step (st { active false with rxv := true } [.hostWrite 0 4 0x4000#32])) (fun t => t.eng.rxv) = some false ∧
    see (step (st { Engine.initial with rxv := true } [.reset .scl])) (fun t => t.eng.rxv) = some false := by decide

/-- ResetFromAnyState, FaultFlagWriters, ErrorFlagWriters, PhaseWriters, ReadResultWriters: reset takes effect with no command
in execution, and at the second release. -/
theorem wit_reset_takes_effect : resetTakesEffect (st (active false) [.reset .sda]) ∧
    resetTakesEffect aborting :=
  ⟨.inl ⟨⟨.sda, rfl⟩, rfl⟩, .inr ⟨rfl, (by intro h; cases h), (by intro h; cases h)⟩⟩

/-- ResetFromAnyState, second clause: the input is asserted during a command, and again during the reset. -/
theorem wit_reset_turn : (st (inside .start 0) [.reset .scl]).agenda = .reset .scl :: [] ∧
    (st (inside .start 0) [.reset .sda]).eng.cur ≠ none ∧ (st (inside .start 0) [.reset .sda]).resetting = none ∧
    (State.resetBegin (st (inside .start 0) [.reset .sda]) .scl).resetting ≠ none ∧
    (State.resetBegin (st (inside .start 0) [.reset .sda]) .scl).eng.cur ≠ none := by decide

/-- ResetReleaseOrder: both lines low, and SDA alone low, with each line first. -/
theorem wit_reset_order :
    (st (inside (.sendByte 0#8) 1) [.reset .scl, .engine]).eng.drv = ⟨.low, .low⟩ ∧
    (st (inside (.sendByte 0#8) 1) [.reset .scl, .engine]).agenda = .reset .scl :: .engine :: [] ∧
    (st (inside (.sendByte 0#8) 3) [.reset .sda, .engine]).eng.drv = ⟨.rel, .low⟩ ∧
    (st (inside (.sendByte 0#8) 3) [.reset .sda, .engine]).agenda = .reset .sda :: .engine :: [] ∧
    (st (inside (.sendByte 0#8) 3) [.reset .sda, .engine]).eng.cur ≠ none ∧
    (st (inside (.sendByte 0#8) 3) [.reset .sda, .engine]).resetting = none ∧
    RemoteSilent (st (inside (.sendByte 0#8) 3) [.reset .sda, .engine]) :=
  ⟨by decide, rfl, by decide, rfl, by decide, rfl, rfl⟩

/-- StepKeepsInvariant, HistoryExplainsState, FaultFlagsRecorded: a step from the reset state. -/
theorem wit_step_from_reset : Inv State.reset ∧ stops (step State.reset) = false := ⟨wit_reset_inv, by decide⟩

/-- StepKeepsInvariant: the second release of a reset. -/
theorem wit_step_aborting :
    Inv aborting ∧
    stops (step aborting) = false :=
  ⟨inv_aborting, by decide⟩

/-- HistoryExplainsState. -/
theorem wit_reset_explained : Explained State.reset.eng where
  drv := rfl
  phase := rfl
  cur := rfl
  err := rfl
  rxv := rfl
  rx := by intro h; cases h
  nsmp := by intro h; cases h
  rxacc := by intro h; cases h

/-- FaultFlagsRecorded, first clause. -/
theorem wit_faults_recorded : FaultsRecorded State.reset.eng := by
  intro k h; cases k <;> cases h

/-- IdleLinesReleased, and FaultFlagsRecorded's second clause. -/
theorem wit_reachable_idle : Reachable State.reset ∧ State.reset.eng.phase = .idle ∧ State.reset.eng.cur = none ∧
    NoReject State.reset.eng.hist :=
  ⟨⟨defaultParams, [], 0, by decide, rfl⟩, rfl, rfl, by intro w k h; simp [State.reset, State.resetWith, Engine.initial] at h⟩

/-- ActiveClockLow, first clause: the state after START. -/
theorem wit_reachable_active : ∃ s, Reachable s ∧ s.eng.phase = .active ∧ s.eng.cur = none :=
  ⟨_, ⟨defaultParams, [.hostWrite 0 4 0x1000#32], 8, by decide, rfl⟩, rfl, rfl⟩

/-- ActiveClockLow, second clause. -/
theorem wit_completing : Inv (st (inside .rstart 7) []) ∧ nextTurn (st (inside .rstart 7) []) = .engine ∧
    see (step (st (inside .rstart 7) [])) (fun t => t.eng.cur) = some none :=
  ⟨inv_inside _ _ _ (by decide) (by decide), rfl, by decide⟩

/-- CommandRunsToCompletion, with a host read and a change of the remote device's drive in between. -/
theorem wit_runs_to_completion : Inv (st (inside .start 0) [.hostRead 4 4, .remote .sda true]) ∧
    (st (inside .start 0) [.hostRead 4 4, .remote .sda true]).eng.cur = some .start ∧
    locate defaultParams 4 4 = .reg .status :=
  ⟨inv_inside _ _ _ (by decide) (by decide), rfl, by decide⟩

/-- SendByteRecordsAcknowledge. -/
theorem wit_send_byte : Inv (st (active false) [.hostWrite 0 4 (0x2000#32 + (0xA5#8).setWidth 32), .remote .sda (!false)]) ∧
    (st (active false) []).eng.cur = none ∧ (st (active false) []).eng.phase = .active :=
  ⟨wit_active_inv _, rfl, rfl⟩

/-- ReadWordReturnsSentWord. -/
theorem wit_read_word :
    Inv (st (active false) ([.hostWrite 0 4 0x4000#32] ++ (sendingWord 0x1234#16 ++ [.hostRead (0 + 8) 4]))) ∧
    (sendingWord 0x1234#16).length = 144 :=
  ⟨wit_active_inv _, by decide⟩

/-- WordAssembly. -/
theorem wit_samples : (List.replicate 16 true).length = 16 := by decide

/-- CommandGrammar: a script in the grammar and one outside it. -/
theorem wit_grammar : Inv (st Engine.initial (hostScript defaultParams [.start, .stop])) ∧ Grammar [.start, .stop] ∧
    Inv (st Engine.initial (hostScript defaultParams [.stop])) ∧ ¬Grammar [.stop] :=
  ⟨inv_quiet _ _ rfl rfl (fun _ => rfl) (by intro h; cases h) rfl (by decide),
    Grammar.transaction [] [] (by simp) Grammar.empty,
    inv_quiet _ _ rfl rfl (fun _ => rfl) (by intro h; cases h) rfl (by decide), by intro h; cases h⟩

/-- WireConditions: START's LOW SDA, RSTART's, STOP's REL SDA, a data change, a host access. -/
theorem wit_wire : Inv (st (inside .start 3) []) ∧ Inv (st (inside .rstart 4) []) ∧ Inv (st (inside .stop 2) []) ∧
    (inside .stop 2).drv.sda = .low ∧ Inv (st (inside (.sendByte 0xFF#8) 0) []) ∧ Inv (st (inside .start 3) [.hostRead 4 4]) ∧
    RemoteSilent (st (inside .start 3) []) ∧ stops (step (st (inside .start 3) [])) = false :=
  ⟨inv_inside _ _ _ (by decide) (by decide), inv_inside _ _ _ (by decide) (by decide),
    inv_inside _ _ _ (by decide) (by decide), rfl, inv_inside _ _ _ (by decide) (by decide),
    inv_inside _ _ _ (by decide) (by decide), rfl, by decide⟩

/-- SendByteBitsOnWire: the first and the last cell. -/
theorem wit_send_byte_cells : Inv (st (inside (.sendByte 0x80#8) 3) []) ∧ (inside (.sendByte 0x80#8) 3).upc = 6 * 0 + 3 ∧
    Inv (st (inside (.sendByte 0x80#8) 45) []) ∧ (inside (.sendByte 0x80#8) 45).upc = 6 * 7 + 3 ∧
    RemoteSilent (st (inside (.sendByte 0x80#8) 45) []) :=
  ⟨inv_inside _ _ _ (by decide) (by decide), rfl, inv_inside _ _ _ (by decide) (by decide), rfl, rfl⟩

/-- ReadWordAcknowledges: the ends of the three ranges. -/
theorem wit_read_word_ranges : Inv (st (inside .readWord 1) []) ∧ Inv (st (inside .readWord 57) []) ∧
    Inv (st (inside .readWord 58) []) ∧ Inv (st (inside .readWord 64) []) ∧ Inv (st (inside .readWord 65) []) ∧
    Inv (st (inside .readWord 127) []) ∧ (inside .readWord 58).drv.sda = .low :=
  ⟨inv_inside _ _ _ (by decide) (by decide), inv_inside _ _ _ (by decide) (by decide),
    inv_inside _ _ _ (by decide) (by decide), inv_inside _ _ _ (by decide) (by decide),
    inv_inside _ _ _ (by decide) (by decide), inv_inside _ _ _ (by decide) (by decide), by decide⟩

/-- ClockLineNeverRead: an engine's step, SCL pulled low. -/
theorem wit_clock_pulled : Inv (st (inside .readWord 4) []) ∧ (∀ y, nextTurn (st (inside .readWord 4) []) ≠ .remote .scl y) ∧
    stops (step (st (inside .readWord 4) [])) = false :=
  ⟨inv_inside _ _ _ (by decide) (by decide), (by intro y h; cases h), by decide⟩

/-- CourseIndependentOfSamples: two states that differ in `err` and in the remote device's drive. -/
theorem wit_same_course :
    (st (active false) [.hostWrite 0 4 0x5000#32]).eng.cur = (State.remotePull (st (active true) [.hostWrite 0 4 0x5000#32]) .sda true).eng.cur ∧
    nextTurn (st (active false) [.hostWrite 0 4 0x5000#32]) =
      nextTurn (State.remotePull (st (active true) [.hostWrite 0 4 0x5000#32]) .sda true) ∧
    (st (active false) []).eng.drv = (State.remotePull (st (active true) []) .sda true).eng.drv ∧
    (st (active false) []).resetting = (State.remotePull (st (active true) []) .sda true).resetting ∧
    (st (active false) []).program = (State.remotePull (st (active true) []) .sda true).program ∧
    stops (step (st (active false) [.hostWrite 0 4 0x5000#32])) = false := by decide

end Sys2Proof.Tests
end

/-! PROOF. What a step does outside the engine (O23). The eleven cases of `StepCase` come down to four ways the engine's
surroundings can fare; each clause of the statement is then read off those four. -/

namespace Sys2Proof.Machine

/-- Everything but the engine, its reset in progress and the draw counter is the same in `t` as in `s` (10_state.md R34). -/
structure SameOutside (s t : State) : Prop where
  cfg : t.cfg = s.cfg
  pull : t.pull = s.pull
  agenda : t.agenda = s.agenda
  replies : t.replies = s.replies
  program : t.program = s.program
  results : t.results = s.results

theorem SameOutside.of_engine (s : State) (e : Engine) (resetting : Option Line) (draws : Nat) :
    SameOutside s { s with eng := e, resetting := resetting, draws := draws } :=
  ⟨rfl, rfl, rfl, rfl, rfl, rfl⟩

/-- The engine's step inside a command stays in the engine (41_bus_transport.md R121). -/
theorem exec_uop_finish_sameOutside {u : Uop} {rest : List Uop} {s m : State} (c : Cmd)
    (h : exec u.toInstr (s.popUop rest) = .next m) : SameOutside s (m.finish c) := by
  obtain ⟨hcfg, hpull, hagenda, hreplies, hprogram, hresults, -⟩ := exec_uop_frame h
  constructor <;> simp [*]

/-- The reset input acts on the engine alone (70_reset_and_hazards.md R200). -/
theorem State.resetBegin_sameOutside (s : State) (l : Line) : SameOutside s (s.resetBegin l) := by
  obtain ⟨-, h⟩ | ⟨-, -, h⟩ | ⟨-, -, h⟩ := s.resetBegin_cases l <;> rw [h] <;> exact .of_engine ..

/-- Only a line of the host's program touches `program` and `results` after an access (30_encoding.md R88). -/
theorem AfterAccess.host_of_program_or_results {s m t : State} (h : AfterAccess s m t)
    (hne : t.program ≠ m.program ∨ t.results ≠ m.results) : nextTurn s = .host := by
  cases h with
  | own => simp at hne
  | line _ _ ht => exact ht

/-- The ways the engine's surroundings can fare in a step. -/
inductive OutsideCase (s : State) : State → Prop where
  /-- nothing outside the engine changes -/
  | quiet (t : State) : SameOutside (dropTurn s) t → OutsideCase s t
  /-- the remote device changes its drive (40_line_driver.md R106) -/
  | remote (l : Line) (x : Bool) : nextTurn s = .remote l x → OutsideCase s ((dropTurn s).remotePull l x)
  /-- a host read, and the line of the host's program that made it, if one did (20_memory.md R54) -/
  | read (a n : Nat) (r : Reg) (t : State) : nextAccess s = some (.read a n) →
      AfterAccess s ((dropTurn s).readReg r) t → OutsideCase s t
  /-- a host write, and the line of the host's program that made it, if one did -/
  | write (m t : State) : AfterAccess s m t → SameOutside (dropTurn s) m → OutsideCase s t

/-- Every step is one of those ways. -/
theorem StepCase.outside {s t : State} (h : StepCase s t) : OutsideCase s t := by
  cases h with
  | idle => exact .quiet _ (.of_engine ..)
  | uop c u rest m _ _ _ _ hm => exact .quiet _ (exec_uop_finish_sameOutside c hm)
  | resetEnd => exact .quiet _ (.of_engine ..)
  | programOver => exact .quiet _ (.of_engine ..)
  | read a n r _ ha _ hm => exact .read a n r _ ha hm
  | command _ _ _ _ _ hm => exact .write _ _ hm (.of_engine ..)
  | illegal _ _ _ _ _ hm => exact .write _ _ hm (.of_engine ..)
  | status _ _ _ hm => exact .write _ _ hm (.of_engine ..)
  | ignored _ _ _ _ _ _ hm => exact .write _ _ hm (.of_engine ..)
  | remote l x ht => exact .remote l x ht
  | reset l => exact .quiet _ ((dropTurn s).resetBegin_sameOutside l)

/-- No step changes the parameters (00_scope.md R4). -/
theorem OutsideCase.cfg_eq {s t : State} (h : OutsideCase s t) : t.cfg = s.cfg := by
  cases h with
  | quiet _ hs => exact hs.cfg
  | remote => rfl
  | read _ _ _ _ _ hm => exact hm.cfg_eq
  | write _ _ hm hs => exact hm.cfg_eq.trans hs.cfg

/-- Every step takes one action off the agenda (20_memory.md R59). -/
theorem OutsideCase.agenda_eq {s t : State} (h : OutsideCase s t) : t.agenda = s.agenda.tail := by
  cases h with
  | quiet _ hs => exact hs.agenda
  | remote => rfl
  | read _ _ _ _ _ hm => exact hm.agenda_eq
  | write _ _ hm hs => exact hm.agenda_eq.trans hs.agenda

/-- Only the remote device changes its drive (40_line_driver.md R105, R106). -/
theorem OutsideCase.remote_of_pull {s t : State} (h : OutsideCase s t) (hne : t.pull ≠ s.pull) :
    ∃ l x, nextTurn s = .remote l x := by
  cases h with
  | quiet _ hs => exact absurd hs.pull hne
  | remote l x ht => exact ⟨l, x, ht⟩
  | read _ _ _ _ _ hm => exact absurd hm.pull_eq hne
  | write _ _ hm hs => exact absurd (hm.pull_eq.trans hs.pull) hne

/-- Only a host read returns a reply, one word, and it has no side effect on the engine (20_memory.md R54). -/
theorem OutsideCase.read_of_replies {s t : State} (h : OutsideCase s t) (hne : t.replies ≠ s.replies) :
    ∃ a n w, nextAccess s = some (.read a n) ∧ t.replies = s.replies ++ [w] ∧ t.eng = s.eng := by
  cases h with
  | quiet _ hs => exact absurd hs.replies hne
  | remote => exact absurd rfl hne
  | read a n r _ ha hm => exact ⟨a, n, _, ha, hm.replies_eq, hm.eng_eq⟩
  | write _ _ hm hs => exact absurd (hm.replies_eq.trans hs.replies) hne

/-- Only the host's turn changes its program and its results (10_state.md R34). -/
theorem OutsideCase.host_of_program_or_results {s t : State} (h : OutsideCase s t)
    (hne : t.program ≠ s.program ∨ t.results ≠ s.results) : nextTurn s = .host := by
  cases h with
  | quiet _ hs => exact (hne.elim (· hs.program) (· hs.results)).elim
  | remote => simp at hne
  | read _ _ _ _ _ hm => exact hm.host_of_program_or_results hne
  | write m _ hm hs =>
    have hprogram : m.program = s.program := hs.program
    have hresults : m.results = s.results := hs.results
    rw [← hprogram, ← hresults] at hne
    exact hm.host_of_program_or_results hne

/-- The remote device's action. -/
theorem step_remote {s : State} {l : Line} {x : Bool} (ht : nextTurn s = .remote l x) :
    step s = .next ((dropTurn s).remotePull l x) := by
  simp [step, ht, takeTurn]

/-- Settles O23, from the four ways of `OutsideCase` and the forward equation of the remote device's action. -/
theorem stepOutsideEngine : Obligations.StepOutsideEngine := by
  intro s t h
  have hout : OutsideCase s t := (step_case h).outside
  refine ⟨hout.cfg_eq, hout.agenda_eq, fun l x ht => ?_, hout.remote_of_pull, hout.read_of_replies,
    hout.host_of_program_or_results⟩
  rw [step_remote ht] at h
  cases h
  cases l <;> rfl

end Sys2Proof.Machine

/-! PROOF. What one step does to the engine, said once (10_state.md). The eleven cases of `StepCase` come down to eight
things that can happen to the engine and to a reset in progress (`EngineCase`); the writers of each field (O30 to O33), the
invariant (O38) and the history (O41) are read off those eight. -/

namespace Sys2Proof.Machine

/-! ## The engine's step inside a command -/

/-- The engine after the micro-op `u`, taken from the head of `uq`, with `rest` left behind it; `b` is the bit that `u`
reads if it is a SMP (41_bus_transport.md R121). -/
def Engine.runUop (e : Engine) (b : Bool) (u : Uop) (rest : List Uop) : Engine :=
  let e' : Engine := { e with uq := rest, upc := e.upc + 1 }
  match u with
  | .rel l => e'.release l
  | .low l => e'.assertLow l
  | .smp .scl => (e'.setDrv .scl .rel).log (.sample .scl b)
  | .smp .sda => ((e'.setDrv .sda .rel).log (.sample .sda b)).deliver e.cur b
  | .wait n => e'.delay n

/-- `runUop` is what `exec` makes of the engine. -/
theorem exec_popUop_eng {u : Uop} {rest : List Uop} {s m : State} (h : exec u.toInstr (s.popUop rest) = .next m) :
    ∃ b, m.eng = s.eng.runUop b u rest := by
  cases u with
  | rel l => cases h; exact ⟨false, rfl⟩
  | low l => cases h; exact ⟨false, rfl⟩
  | wait n => cases h; exact ⟨false, rfl⟩
  | smp l => cases l <;> cases h <;> exact ⟨_, rfl⟩

/-- The event of a micro-op, which reads the bit `b` if it is a SMP (10_state.md R33). -/
def uopEvent (b : Bool) : Uop → Event
  | .rel l => .drive l .rel
  | .low l => .drive l .low
  | .smp l => .sample l b
  | .wait n => .wait n

section RunUop

variable (e : Engine) (b : Bool) (u : Uop) (rest : List Uop)

/-- A micro-op writes the lines, the timer, what a sample is delivered to, and `hist`; nothing else. -/
theorem Engine.runUop_frame :
    e.runUop b u rest = { e with
      uq := rest
      upc := e.upc + 1
      drv := (e.runUop b u rest).drv
      tmr := (e.runUop b u rest).tmr
      err := (e.runUop b u rest).err
      rxacc := (e.runUop b u rest).rxacc
      nsmp := (e.runUop b u rest).nsmp
      hist := (e.runUop b u rest).hist } := by
  rcases u with l | l | (_ | _) | n
  case smp.sda => simp only [Engine.runUop]; rw [Engine.deliver_frame]; simp
  all_goals rfl

@[simp] theorem Engine.runUop_uq : (e.runUop b u rest).uq = rest := by rw [Engine.runUop_frame]
@[simp] theorem Engine.runUop_upc : (e.runUop b u rest).upc = e.upc + 1 := by rw [Engine.runUop_frame]
@[simp] theorem Engine.runUop_phase : (e.runUop b u rest).phase = e.phase := by rw [Engine.runUop_frame]
@[simp] theorem Engine.runUop_cur : (e.runUop b u rest).cur = e.cur := by rw [Engine.runUop_frame]
@[simp] theorem Engine.runUop_rx : (e.runUop b u rest).rx = e.rx := by rw [Engine.runUop_frame]
@[simp] theorem Engine.runUop_rxv : (e.runUop b u rest).rxv = e.rxv := by rw [Engine.runUop_frame]
@[simp] theorem Engine.runUop_flag (k : RejectKind) : (e.runUop b u rest).flag k = e.flag k := by
  rw [Engine.runUop_frame]; cases k <;> rfl

/-- R100 to R103. -/
@[simp] theorem Engine.runUop_drv : (e.runUop b u rest).drv = e.drv.after u := by
  rcases u with l | l | (_ | _) | n <;> simp [Engine.runUop, Pads.after]

/-- The timer is at 0 after a micro-op if it was before (10_state.md R29). -/
theorem Engine.runUop_tmr (h : e.tmr = 0) : (e.runUop b u rest).tmr = 0 := by
  rcases u with l | l | (_ | _) | n <;> simp [Engine.runUop, h]

/-- Only an acknowledge sample of SEND_BYTE that is 1 sets `err` (R140). -/
theorem Engine.runUop_err : (e.runUop b u rest).err = e.err ∨
    (e.runUop b u rest).err = true ∧ (∃ v, e.cur = some (.sendByte v)) ∧ u = .smp .sda ∧ b = true := by
  rcases u with l | l | (_ | _) | n
  case smp.sda => rcases h : e.cur with _ | c <;> [skip; cases c] <;> cases b <;> simp [Engine.runUop, Engine.deliver, h]
  all_goals simp [Engine.runUop]

/-- Only a sample of SDA delivered to READ_WORD counts (R150). -/
theorem Engine.runUop_nsmp : (e.runUop b u rest).nsmp =
    e.nsmp + if e.cur = some .readWord ∧ u = .smp .sda then 1 else 0 := by
  rcases u with l | l | (_ | _) | n
  case smp.sda => rcases h : e.cur with _ | c <;> [skip; cases c] <;> simp [Engine.runUop, Engine.deliver, h]
  all_goals simp [Engine.runUop]

/-- A micro-op appends its event (10_state.md R33). -/
@[simp] theorem Engine.runUop_hist : (e.runUop b u rest).hist = e.hist ++ [uopEvent b u] := by
  rcases u with l | l | (_ | _) | n <;> simp [Engine.runUop, uopEvent]

end RunUop

/-! ## The fields of `accept` and `complete` that depend on the command -/

@[simp] theorem Engine.accept_flag (e : Engine) (p : Params) (c : Cmd) (k : RejectKind) :
    (e.accept p c).flag k = e.flag k := by
  cases k <;> simp [Engine.flag]

@[simp] theorem Engine.release_flag (e : Engine) (l : Line) (k : RejectKind) : (e.release l).flag k = e.flag k := by
  cases k <;> rfl

@[simp] theorem Engine.resetTo_flag (e : Engine) (x y : Half) (k : RejectKind) : (e.resetTo x y).flag k = false := by
  cases k <;> rfl

@[simp] theorem Engine.complete_flag (e : Engine) (j : Half) (c : Cmd) (k : RejectKind) :
    (e.complete j c).flag k = e.flag k := by
  cases k <;> simp [Engine.flag]

/-- Acceptance of START alone clears `err` (R130). -/
theorem Engine.accept_err (e : Engine) (p : Params) (c : Cmd) :
    (e.accept p c).err = if c = .start then false else e.err := by
  cases c <;> rfl

/-- Acceptance of START and of READ_WORD clears `rxv` (10_state.md R31). -/
theorem Engine.accept_rxv (e : Engine) (p : Params) (c : Cmd) :
    (e.accept p c).rxv = if c = .start ∨ c = .readWord then false else e.rxv := by
  cases c <;> rfl

/-- Acceptance of READ_WORD clears `nsmp` (R150). -/
theorem Engine.accept_nsmp (e : Engine) (p : Params) (c : Cmd) :
    (e.accept p c).nsmp = if c = .readWord then 0 else e.nsmp := by
  cases c <;> rfl

/-- Completion of START sets Active, completion of STOP sets Idle (10_state.md R23). -/
theorem Engine.complete_phase (e : Engine) (j : Half) (c : Cmd) :
    (e.complete j c).phase = if c = .start then .active else if c = .stop then .idle else e.phase := by
  cases c <;> rfl

/-- Completion of READ_WORD alone writes `rx` (R150). -/
theorem Engine.complete_rx (e : Engine) (j : Half) (c : Cmd) :
    (e.complete j c).rx = if c = .readWord then assembleWord e.rxacc else e.rx := by
  cases c <;> rfl

/-- Completion of READ_WORD alone sets `rxv` (R150). -/
theorem Engine.complete_rxv (e : Engine) (j : Half) (c : Cmd) :
    (e.complete j c).rxv = if c = .readWord then true else e.rxv := by
  cases c <;> rfl

/-! ## The step, as far as the engine goes -/

/-- The four fields of a command word (30_encoding.md R80). -/
theorem word_toNat_eq_fields (w : Word) : w.toNat =
    65536 * (w.extractLsb 31 16).toNat + 4096 * (w.extractLsb 15 12).toNat + 256 * (w.extractLsb 11 8).toNat +
      (w.extractLsb 7 0).toNat := by
  simp only [BitVec.extractLsb_toNat, Nat.shiftRight_eq_div_pow]
  omega

/-- A command's word is the only one that decodes to it (30_encoding.md R84). -/
theorem eq_word_of_decodeCmd {w : Word} {c : Cmd} (h : decodeCmd w = .ok c.toInstr) : w = c.word := by
  have hw := word_toNat_eq_fields w
  apply BitVec.eq_of_toNat_eq
  unfold decodeCmd at h
  split at h
  · cases h
  · split at h
    · cases h
    · rename_i hhigh hmid
      simp only [not_not.1 hhigh, not_not.1 hmid, BitVec.ofNat_eq_ofNat, BitVec.toNat_ofNat, Nat.zero_mod] at hw
      split at h <;> rename_i hop
      case h_2 =>
        cases c <;> cases h
        rw [hop] at hw
        simp only [hw, Cmd.word, commandWord, Cmd.toInstr, encodeNat, BitVec.toNat_ofNat]
        omega
      case h_6 => cases h
      all_goals
        split at h
        · rename_i hdata
          cases c <;> cases h
          rw [hop, hdata] at hw
          exact hw
        · cases h

/-- What a step makes of the engine and of a reset in progress. -/
inductive EngineCase (s : State) : Engine → Option Line → Prop where
  /-- nothing -/
  | same : EngineCase s s.eng s.resetting
  /-- a micro-op that is not its command's last one (R121) -/
  | uop (c : Cmd) (u : Uop) (rest : List Uop) (b : Bool) : nextTurn s = .engine → s.eng.cur = some c →
      s.resetting = none → s.eng.uq = u :: rest → rest ≠ [] → EngineCase s (s.eng.runUop b u rest) none
  /-- the last micro-op of a command, and the command's completion (R121) -/
  | done (c : Cmd) (u : Uop) (b : Bool) (junk : Half) : nextTurn s = .engine → s.eng.cur = some c →
      s.resetting = none → s.eng.uq = [u] → EngineCase s ((s.eng.runUop b u []).complete junk c) none
  /-- reset takes effect, after the release of the second line if it aborts a command (R200, R201) -/
  | reset (e : Engine) (rx acc : Half) : resetTakesEffect s →
      e = s.eng ∨ (∃ l, s.resetting = some l ∧ e = s.eng.release l) → EngineCase s (e.resetTo rx acc) none
  /-- the reset input aborts a command: the first line is released (R201) -/
  | abort (l : Line) : s.eng.cur ≠ none → s.resetting = none →
      EngineCase s (s.eng.release l) (some (otherLine l))
  /-- a word written to `CMD` is rejected (R120) -/
  | raise (w : Word) (k : RejectKind) : nextAccess s = some (.write s.cfg.engineBase 4 w) →
      EngineCase s (s.eng.raise w k) s.resetting
  /-- a command's word written to `CMD` is accepted (R120) -/
  | accept (c : Cmd) : nextAccess s = some (.write s.cfg.engineBase 4 c.word) → s.eng.cur = none →
      s.eng.phase = c.entryPhase → EngineCase s (s.eng.accept s.cfg c) s.resetting
  /-- a write to `STATUS` (10_state.md R35) -/
  | status (v : Word) : nextAccess s = some (.write (s.cfg.engineBase + 4) 4 v) →
      EngineCase s (s.eng.writeStatus v) s.resetting

/-- The engine's step inside a command. -/
theorem engineCase_of_uop {s m : State} {c : Cmd} {u : Uop} {rest : List Uop} (ht : nextTurn s = .engine)
    (hc : s.eng.cur = some c) (hr : s.resetting = none) (hq : s.eng.uq = u :: rest)
    (hm : exec u.toInstr ((dropTurn s).popUop rest) = .next m) :
    EngineCase s (m.finish c).eng (m.finish c).resetting := by
  obtain ⟨b, hb⟩ := exec_popUop_eng hm
  have hmr : m.resetting = none := by
    obtain ⟨-, -, -, -, -, -, hmr, -⟩ := exec_uop_frame hm
    exact hmr.trans hr
  rw [State.finish_resetting, hmr]
  by_cases hrest : rest = []
  · subst hrest
    rw [State.finish_last (by rw [hb, Engine.runUop_uq]), hb]
    exact .done c u b _ ht hc hr hq
  · rw [State.finish_more (by rwa [hb, Engine.runUop_uq]), hb]
    exact .uop c u rest b ht hc hr hq hrest

/-- A command's word written to `CMD` is rejected or accepted. -/
theorem engineCase_of_submit {s : State} {c : Cmd} (ha : nextAccess s = some (.write s.cfg.engineBase 4 c.word)) :
    EngineCase s (s.eng.submit s.cfg c) s.resetting := by
  by_cases hc : s.eng.cur = none
  · by_cases hp : s.eng.phase = c.entryPhase
    · rw [Engine.submit_accept hc hp]; exact .accept c ha hc hp
    · rw [Engine.submit_seq hc hp]; exact .raise _ _ ha
  · rw [Engine.submit_busy hc]; exact .raise _ _ ha

/-- An illegal word written to `CMD` is rejected. -/
theorem engineCase_of_submitIllegal {s : State} {w : Word} (ha : nextAccess s = some (.write s.cfg.engineBase 4 w)) :
    EngineCase s (s.eng.submitIllegal w) s.resetting := by
  by_cases hc : s.eng.cur = none
  · rw [Engine.submitIllegal_idle hc]; exact .raise _ _ ha
  · rw [Engine.submitIllegal_busy hc]; exact .raise _ _ ha

/-- The reset input. -/
theorem engineCase_of_resetBegin {s : State} {l : Line} (ht : nextTurn s = .reset l) :
    EngineCase s ((dropTurn s).resetBegin l).eng ((dropTurn s).resetBegin l).resetting := by
  obtain ⟨hc, h⟩ | ⟨hc, hr, h⟩ | ⟨-, -, h⟩ := (dropTurn s).resetBegin_cases l <;> rw [h]
  · exact .reset _ _ _ (.inl ⟨⟨l, ht⟩, hc⟩) (.inl rfl)
  · exact .abort l hc hr
  · exact .same

/-- Every step is one of the eight cases. -/
theorem StepCase.engine {s t : State} (h : StepCase s t) : EngineCase s t.eng t.resetting := by
  cases h with
  | idle => exact .same
  | uop c u rest m ht hc hr hq hm => exact engineCase_of_uop ht hc hr hq hm
  | resetEnd l ht hc hr =>
    exact .reset _ _ _ (.inr ⟨ht, hc, by simp [hr]⟩) (.inr ⟨l, hr, rfl⟩)
  | programOver => exact .same
  | read a n r _ _ _ hm => rw [hm.eng_eq, hm.resetting_eq]; exact .same
  | command w c _ ha hd hm =>
    rw [hm.eng_eq, hm.resetting_eq]
    exact engineCase_of_submit (eq_word_of_decodeCmd hd ▸ ha)
  | illegal w x _ ha _ hm => rw [hm.eng_eq, hm.resetting_eq]; exact engineCase_of_submitIllegal ha
  | status v _ ha hm => rw [hm.eng_eq, hm.resetting_eq]; exact .status v ha
  | ignored _ _ _ _ _ _ hm => rw [hm.eng_eq, hm.resetting_eq]; exact .same
  | remote => exact .same
  | reset l ht => exact engineCase_of_resetBegin ht

/-- Where reset takes effect, the engine is the one after reset (R200). -/
theorem eng_of_resetTakesEffect {s t : State} (hr : resetTakesEffect s) (h : step s = .next t) :
    ∃ e rx acc, t.eng = Engine.resetTo e rx acc := by
  obtain ⟨⟨l, ht⟩, hc⟩ | ⟨ht, hc, hl⟩ := hr
  · have hs : step s = .next ((dropTurn s).resetBegin l) := by simp [step, ht, takeTurn]
    rw [State.resetBegin_idle (s := dropTurn s) hc, h] at hs
    cases hs
    exact ⟨_, _, _, rfl⟩
  · obtain ⟨l, hl⟩ := Option.ne_none_iff_exists'.1 hl
    have hs := step_resetEnd ht hc hl
    rw [h] at hs
    cases hs
    exact ⟨_, _, _, rfl⟩

end Sys2Proof.Machine

/-! PROOF. Every step keeps the invariant of the machine (O38).
`Executed` is `Running` without the demand that a micro-op is left: every micro-op leads from `Running` to it, and from it
the command either goes on or has the lines at its completion, whatever they were at its entry (`replay_expand`). -/

namespace Sys2Proof

open Machine

/-! ## What the expansions do to the lines, and how often READ_WORD samples -/

theorem replay_append (d : Pads) (us vs : List Uop) : replay d (us ++ vs) = replay (replay d us) vs :=
  List.foldl_append

/-- A transmit bit cell leaves SCL low and SDA at its bit (R123). -/
theorem replay_txbit (d : Pads) (p : Params) (x : Bool) :
    replay d (txbit p x) = ⟨.low, if x then .rel else .low⟩ := by
  cases x <;> rfl

/-- Whatever the lines were at its entry, a command leaves them as its rule says. -/
theorem replay_expand (d : Pads) (p : Params) (c : Cmd) : replay d (expand p c) = c.exitLines := by
  cases c with
  | start => rfl
  | sendByte v => rw [expand, expandSendByte, replay_append]; rfl
  | rstart => rfl
  | readWord =>
    rw [expand, expandReadWord, replay_append, replay_append, replay_txbit]
    rfl
  | stop => rfl

/-- A command that ends in Idle leaves both lines released (10_state.md R24). -/
theorem exitLines_of_idle {c : Cmd} (h : c.exitPhase = .idle) : c.exitLines = Pads.released := by
  cases c <;> cases h
  rfl

/-- A command that ends in Active leaves SCL low (10_state.md R25). -/
theorem exitLines_of_active {c : Cmd} (h : c.exitPhase = .active) : c.exitLines.scl = .low := by
  cases c <;> cases h <;> rfl

theorem count_smp_rxbyte (p : Params) : (rxbyte p).count (.smp .sda) = 8 := rfl

/-- READ_WORD takes 16 samples (R122). -/
theorem count_smp_expandReadWord (p : Params) : (expandReadWord p).count (.smp .sda) = 16 := by
  simp [expandReadWord, count_smp_rxbyte]

theorem length_expand_pos (p : Params) (c : Cmd) : 0 < (expand p c).length := by
  cases c <;> simp [expand, expandStart, expandRstart, expandStop]

/-! ## Inside a command -/

/-- The engine has executed the micro-ops of `c` up to `upc`, perhaps all of them. -/
structure Executed (p : Params) (c : Cmd) (e : Engine) : Prop where
  inPhase : e.phase = c.entryPhase
  queue : e.uq = (expand p c).drop e.upc
  lines : ∃ d, c.entryLines d ∧ e.drv = replay d ((expand p c).take e.upc)
  counted : c = .readWord → e.nsmp = ((expand p c).take e.upc).count (.smp .sda)
  errClear : c = .start → e.err = false
  rxvClear : c = .start ∨ c = .readWord → e.rxv = false

/-- With a micro-op left, the engine is still inside the command. -/
theorem Executed.running {p : Params} {c : Cmd} {e : Engine} (h : Executed p c e) (hq : e.uq ≠ []) : Running p c e :=
  { h with notOver := by rw [h.queue] at hq; simpa [List.drop_eq_nil_iff] using hq }

/-- With none left, the lines are those at the command's completion. -/
theorem Executed.drv_eq_exitLines {p : Params} {c : Cmd} {e : Engine} (h : Executed p c e) (hq : e.uq = []) :
    e.drv = c.exitLines := by
  obtain ⟨d, -, hd⟩ := h.lines
  rw [hd, List.take_of_length_le (List.drop_eq_nil_iff.1 (h.queue ▸ hq)), replay_expand]

/-- The phase after the command's completion. -/
theorem Executed.complete_phase {p : Params} {c : Cmd} {e : Engine} (h : Executed p c e) (j : Half) :
    (e.complete j c).phase = c.exitPhase := by
  rw [Engine.complete_phase, h.inPhase]
  cases c <;> rfl

/-- READ_WORD has taken at most its 16 samples (10_state.md R30). -/
theorem Executed.nsmp_le {p : Params} {e : Engine} (h : Executed p .readWord e) : e.nsmp ≤ 16 := by
  rw [h.counted rfl, ← count_smp_expandReadWord p]
  exact (List.take_sublist _ _).count_le _

/-- READ_WORD has taken all its 16 samples when no micro-op is left. -/
theorem Executed.nsmp_eq {p : Params} {e : Engine} (h : Executed p .readWord e) (hq : e.uq = []) : e.nsmp = 16 := by
  rw [h.counted rfl, List.take_of_length_le (List.drop_eq_nil_iff.1 (h.queue ▸ hq))]
  exact count_smp_expandReadWord p

/-- The head of `uq` is the micro-op at `upc` of the expansion. -/
theorem Running.take_succ {p : Params} {c : Cmd} {e : Engine} {u : Uop} {rest : List Uop} (h : Running p c e)
    (hq : e.uq = u :: rest) : (expand p c).take (e.upc + 1) = (expand p c).take e.upc ++ [u] := by
  have hu : (expand p c)[e.upc]? = some u := by
    rw [← List.head?_drop, ← h.queue, hq, List.head?_cons]
  rw [List.take_add_one, hu, Option.toList_some]

/-- A micro-op of the command in execution (R121). -/
theorem Running.executed_runUop {p : Params} {c : Cmd} {e : Engine} {u : Uop} {rest : List Uop} (h : Running p c e)
    (hc : e.cur = some c) (hq : e.uq = u :: rest) (b : Bool) : Executed p c (e.runUop b u rest) where
  inPhase := by simpa using h.inPhase
  queue := by
    rw [Engine.runUop_uq, Engine.runUop_upc, ← List.tail_drop, ← h.queue, hq, List.tail_cons]
  lines := by
    obtain ⟨d, hd, hdrv⟩ := h.lines
    refine ⟨d, hd, ?_⟩
    rw [Engine.runUop_drv, Engine.runUop_upc, h.take_succ hq, replay_append, ← hdrv]
    rfl
  counted := by
    rintro rfl
    rw [Engine.runUop_nsmp, Engine.runUop_upc, h.take_succ hq, List.count_append, h.counted rfl]
    simp [hc, List.count_singleton]
  errClear := by
    rintro rfl
    obtain herr | ⟨-, ⟨v, hv⟩, -⟩ := e.runUop_err b u rest
    · rw [herr]; exact h.errClear rfl
    · simp [hc] at hv
  rxvClear := by simpa using h.rxvClear

/-- READ_WORD has taken fewer than 16 samples when it takes one more. -/
theorem Executed.nsmp_lt {p : Params} {c : Cmd} {e : Engine} {b : Bool} {u : Uop} {rest : List Uop}
    (h : Executed p c (e.runUop b u rest)) (hc : e.cur = some c) (hcr : e.cur = some .readWord) (hu : u = .smp .sda) :
    e.nsmp < 16 := by
  obtain rfl : c = .readWord := by simpa [hc] using hcr
  have := h.nsmp_le
  rw [Engine.runUop_nsmp, if_pos ⟨hcr, hu⟩] at this
  omega

/-- An accepted command is at its first micro-op (R120). -/
theorem running_accept {p : Params} {c : Cmd} {e : Engine} (hp : e.phase = c.entryPhase) (hl : c.entryLines e.drv) :
    Running p c (e.accept p c) where
  inPhase := by simpa using hp
  queue := by simp
  notOver := by simpa using length_expand_pos p c
  lines := ⟨e.drv, hl, by simp [replay]⟩
  counted := by rintro rfl; simp [Engine.accept_nsmp]
  errClear := by rintro rfl; simp [Engine.accept_err]
  rxvClear := fun h => by simp [Engine.accept_rxv, h]

/-- The fault flags and the history play no part in a command. -/
theorem Running.with_flags {p : Params} {c : Cmd} {e : Engine} (h : Running p c e) (i q o : Bool) (hs : List Event) :
    Running p c { e with ill := i, seq := q, ovr := o, hist := hs } :=
  { h with }

/-! ## The invariant, case by case -/

/-- The state with another engine and another reset in progress. -/
def Machine.State.withEngine (s : State) (e : Engine) (r : Option Line) : State := { s with eng := e, resetting := r }

/-- The invariant looks at the engine, the parameters and a reset in progress alone. -/
theorem Inv.of_eq {s t : State} (h : Inv s) (he : t.eng = s.eng) (hcfg : t.cfg = s.cfg)
    (hr : t.resetting = s.resetting) : Inv t where
  noQueue := by rw [he]; exact h.noQueue
  idleLines := by rw [he]; exact h.idleLines
  activeLines := by rw [he]; exact h.activeLines
  running := by rw [he, hcfg, hr]; exact h.running
  aborting := by rw [he, hr]; exact h.aborting
  timer := by rw [he]; exact h.timer
  samples := by rw [he]; exact h.samples

section KeepsInv

variable {s : State}

/-- The invariant does not look at the fault flags and the history. -/
theorem Inv.with_flags (h : Inv s) (i q o : Bool) (hs : List Event) :
    Inv (s.withEngine { s.eng with ill := i, seq := q, ovr := o, hist := hs } s.resetting) where
  noQueue := h.noQueue
  idleLines := h.idleLines
  activeLines := h.activeLines
  running := fun c hc hr => (h.running c hc hr).with_flags i q o hs
  aborting := h.aborting
  timer := h.timer
  samples := h.samples

/-- A rejected command write keeps the invariant. -/
theorem Inv.raise (h : Inv s) (w : Word) (k : RejectKind) : Inv (s.withEngine (s.eng.raise w k) s.resetting) := by
  cases k <;> exact h.with_flags ..

/-- With no command in execution no reset is in progress. -/
theorem Inv.resetting_none (h : Inv s) (hc : s.eng.cur = none) : s.resetting = none := by
  cases hr : s.resetting with
  | none => rfl
  | some l => exact absurd hc (h.aborting l hr).1

/-- With no command in execution the lines are those at the entry of a command that is legal in `phase`. -/
theorem Inv.entryLines (h : Inv s) {c : Cmd} (hc : s.eng.cur = none) (hp : s.eng.phase = c.entryPhase) :
    c.entryLines s.eng.drv := by
  cases c with
  | start => exact h.idleLines hc hp
  | _ => exact h.activeLines hc hp

/-- Acceptance keeps the invariant (R120). -/
theorem Inv.accept (h : Inv s) {c : Cmd} (hc : s.eng.cur = none) (hp : s.eng.phase = c.entryPhase) :
    Inv (s.withEngine (s.eng.accept s.cfg c) s.resetting) where
  noQueue := by simp [State.withEngine]
  idleLines := by simp [State.withEngine]
  activeLines := by simp [State.withEngine]
  running := by
    intro c' hc' _
    obtain rfl : c = c' := by simpa [State.withEngine] using hc'
    exact running_accept hp (h.entryLines hc hp)
  aborting := by simp [State.withEngine, h.resetting_none hc]
  timer := by simpa [State.withEngine] using h.timer
  samples := by
    show (s.eng.accept s.cfg c).nsmp ≤ 16
    rw [Engine.accept_nsmp]
    split
    · omega
    · exact h.samples

/-- The release of the first line of a command that is being aborted keeps the invariant (R201). -/
theorem Inv.abort (h : Inv s) (l : Line) (hc : s.eng.cur ≠ none) :
    Inv (s.withEngine (s.eng.release l) (some (otherLine l))) where
  noQueue := fun hn => absurd hn hc
  idleLines := fun hn => absurd hn hc
  activeLines := fun hn => absurd hn hc
  running := by simp [State.withEngine]
  aborting := by
    intro k hk
    obtain rfl : otherLine l = k := by simpa [State.withEngine] using hk
    exact ⟨hc, by cases l <;> rfl⟩
  timer := h.timer
  samples := h.samples

/-- The engine after reset meets the invariant (10_state.md R39). -/
theorem inv_resetTo (s : State) (e : Engine) (rx acc : Half) : Inv (s.withEngine (e.resetTo rx acc) none) where
  noQueue := fun _ => rfl
  idleLines := fun _ _ => rfl
  activeLines := by simp [State.withEngine]
  running := by simp [State.withEngine]
  aborting := by simp [State.withEngine]
  timer := rfl
  samples := by simp [State.withEngine]

/-- `nsmp` stays in 0..16 (10_state.md R30). -/
theorem Inv.runUop_nsmp_le (h : Inv s) {c : Cmd} {u : Uop} {rest : List Uop} {b : Bool} (hc : s.eng.cur = some c)
    (hx : Executed s.cfg c (s.eng.runUop b u rest)) : (s.eng.runUop b u rest).nsmp ≤ 16 := by
  by_cases hcr : c = .readWord
  · subst hcr; exact hx.nsmp_le
  · rw [Engine.runUop_nsmp]
    simpa [hc, hcr] using h.samples

/-- A micro-op that is not its command's last one keeps the invariant (R121). -/
theorem Inv.uop (h : Inv s) {c : Cmd} {u : Uop} {rest : List Uop} {b : Bool} (hc : s.eng.cur = some c)
    (hx : Executed s.cfg c (s.eng.runUop b u rest)) (hrest : rest ≠ []) :
    Inv (s.withEngine (s.eng.runUop b u rest) none) where
  noQueue := by simp [State.withEngine, hc]
  idleLines := by simp [State.withEngine, hc]
  activeLines := by simp [State.withEngine, hc]
  running := by
    intro c' hc' _
    obtain rfl : c = c' := by simpa [State.withEngine, hc] using hc'
    exact hx.running (by simpa using hrest)
  aborting := by simp [State.withEngine]
  timer := Engine.runUop_tmr _ _ _ _ h.timer
  samples := h.runUop_nsmp_le hc hx

/-- The last micro-op of a command, and its completion, keep the invariant (R121). -/
theorem Inv.done (h : Inv s) {c : Cmd} {u : Uop} {b : Bool} {j : Half} (hc : s.eng.cur = some c)
    (hx : Executed s.cfg c (s.eng.runUop b u [])) :
    Inv (s.withEngine ((s.eng.runUop b u []).complete j c) none) := by
  have hdrv : ((s.eng.runUop b u []).complete j c).drv = c.exitLines := by
    rw [Engine.complete_drv, hx.drv_eq_exitLines (by simp)]
  have hphase := hx.complete_phase j
  exact {
    noQueue := by simp [State.withEngine]
    idleLines := fun _ hp => hdrv.trans (exitLines_of_idle (hphase.symm.trans hp))
    activeLines := fun _ hp => (congrArg Pads.scl hdrv).trans (exitLines_of_active (hphase.symm.trans hp))
    running := by simp [State.withEngine]
    aborting := by simp [State.withEngine]
    timer := by simpa [State.withEngine] using Engine.runUop_tmr _ _ _ _ h.timer
    samples := by simpa [State.withEngine] using h.runUop_nsmp_le hc hx }

/-- Whatever a step makes of the engine keeps the invariant. -/
theorem Machine.EngineCase.inv {e : Engine} {r : Option Line} (hcase : EngineCase s e r) (h : Inv s) :
    Inv (s.withEngine e r) := by
  cases hcase with
  | same => exact h
  | uop c u rest b _ hc hr hq hrest => exact h.uop hc ((h.running c hc hr).executed_runUop hc hq b) hrest
  | done c u b j _ hc hr hq => exact h.done hc ((h.running c hc hr).executed_runUop hc hq b)
  | reset e rx acc _ _ => exact inv_resetTo s e rx acc
  | abort l hc _ => exact h.abort l hc
  | raise w k _ => exact h.raise w k
  | accept c _ hc hp => exact h.accept hc hp
  | status v _ => exact h.with_flags ..

end KeepsInv

/-- Settles O38: the eight cases of `EngineCase`, each of which keeps the invariant. -/
theorem stepKeepsInvariant : Obligations.StepKeepsInvariant := by
  intro s t hinv h
  have hcase := step_case h
  exact (hcase.engine.inv hinv).of_eq rfl hcase.outside.cfg_eq rfl

end Sys2Proof

/-! PROOF. The history accounts for the engine's state, and every step keeps it so (O41); the reset state meets the invariant
and is accounted for (O37). Each of the eight cases of `EngineCase` appends at most two events, and the observer's reading
of each event is what the case does to the engine. The one fact about words is that `wordOfSamples` of READ_WORD's samples is
`assembleWord` of the accumulator they were put in (`wordOfSamples_eq_assembleWord`). -/

namespace Sys2Proof

open Machine

/-! ## The samples of READ_WORD -/

/-- A sample goes to its own bit and no other (10_state.md R30). -/
theorem putSample_getLsbD (acc : Half) {k i : Nat} (b : Bool) (hk : k < 16) (hi : i < 16) :
    (putSample acc k b).getLsbD i = if i = 15 - k then b else acc.getLsbD i := by
  have hbit : (1#16 <<< (15 - k)).getLsbD i = decide (i = 15 - k) := by
    rw [BitVec.getLsbD_shiftLeft, BitVec.getLsbD_one]
    by_cases h : i = 15 - k
    · simp [h]; omega
    · simp [h]; omega
  rw [putSample, if_pos hk, setBit]
  cases b with
  | false =>
    rw [if_neg Bool.false_ne_true, BitVec.getLsbD_and, BitVec.getLsbD_not, hbit]
    by_cases h : i = 15 - k <;> simp [h, hi]
  | true =>
    rw [if_pos rfl, BitVec.getLsbD_or, hbit]
    by_cases h : i = 15 - k <;> simp [h]

theorem bitsValue_append_one (bs : List Bool) (b : Bool) : bitsValue (bs ++ [b]) = 2 * bitsValue bs + b.toNat := by
  simp [bitsValue]

/-- The low `n` bits of a number, most significant first, give it back. -/
theorem bitsValue_testBit (n x : Nat) : bitsValue ((List.range n).map fun k => x.testBit (n - 1 - k)) = x % 2 ^ n := by
  induction n generalizing x with
  | zero => simp [bitsValue, Nat.mod_one]
  | succ n ih =>
    have hinit : ((List.range n).map fun k => x.testBit (n - k)) =
        (List.range n).map fun k => (x / 2).testBit (n - 1 - k) := by
      refine List.map_congr_left fun k hk => ?_
      rw [Nat.testBit_div_two]
      have := List.mem_range.1 hk
      congr 1; omega
    rw [List.range_succ, List.map_append, List.map_singleton, bitsValue_append_one, Nat.add_sub_cancel, hinit, ih,
      Nat.sub_self, Nat.testBit_zero, Nat.pow_succ', Nat.mod_mul]
    rcases Nat.mod_two_eq_zero_or_one x with h | h <;> simp [h, Nat.add_comm]

/-- A list of the low `n` bits of a number. -/
theorem bitsValue_of_getElem? {bs : List Bool} {n x : Nat} (hlen : bs.length = n)
    (hbs : ∀ k, k < n → bs[k]? = some (x.testBit (n - 1 - k))) : bitsValue bs = x % 2 ^ n := by
  rw [← bitsValue_testBit]
  congr 1
  refine List.ext_getElem? fun k => ?_
  by_cases hk : k < n
  · simp [hbs k hk, hk]
  · simp [hlen, Nat.not_lt.1 hk]

/-- R150's assembly swaps the two bytes. -/
theorem assembleWord_toNat (acc : Half) : (assembleWord acc).toNat = acc.toNat / 256 + 256 * (acc.toNat % 256) := by
  have h := acc.isLt
  have hor := Nat.shiftLeft_add_eq_or_of_lt (b := acc.toNat / 256) (i := 8) (by omega) (acc.toNat % 256)
  have hlow : acc.toNat / 2 ^ 8 % 2 ^ (15 - 8 + 1) % 2 ^ 16 = acc.toNat / 256 := by omega
  have hhigh : acc.toNat / 2 ^ 0 % 2 ^ (7 - 0 + 1) % 2 ^ 16 * 2 ^ 8 % 2 ^ 16 = acc.toNat % 256 * 2 ^ 8 := by omega
  simp only [assembleWord, BitVec.toNat_or, BitVec.toNat_shiftLeft, BitVec.toNat_setWidth, BitVec.extractLsb_toNat,
    Nat.shiftRight_eq_div_pow, Nat.shiftLeft_eq] at hor ⊢
  rw [hlow, hhigh, Nat.or_comm, ← hor]
  omega

/-- R150's assembly, from the samples in time order. -/
theorem wordOfSamples_eq_assembleWord {bs : List Bool} {acc : Half} (hlen : bs.length = 16)
    (hbs : ∀ k, k < 16 → bs[k]? = some (acc.getLsbD (15 - k))) : wordOfSamples bs = assembleWord acc := by
  have hlow : bitsValue (bs.take 8) = acc.toNat / 256 % 2 ^ 8 := by
    refine bitsValue_of_getElem? (by simp [hlen]) fun k hk => ?_
    rw [List.getElem?_take_of_lt hk, hbs k (by omega), BitVec.getLsbD]
    rw [show acc.toNat / 256 = acc.toNat / 2 ^ 8 from rfl, Nat.testBit_div_two_pow]
    congr 2; omega
  have hhigh : bitsValue (bs.drop 8) = acc.toNat % 2 ^ 8 := by
    refine bitsValue_of_getElem? (by simp [hlen]) fun k hk => ?_
    rw [List.getElem?_drop, hbs _ (by omega), BitVec.getLsbD]
    congr 2; omega
  have hacc := acc.isLt
  apply BitVec.eq_of_toNat_eq
  rw [assembleWord_toNat, wordOfSamples, hlow, hhigh, BitVec.toNat_ofNat]
  rw [Nat.mod_eq_of_lt (a := acc.toNat / 256) (by omega), Nat.mod_eq_of_lt (by omega)]
  rfl

/-! ## What one more event shows -/

/-- `Explained`, of an observer's knowledge however it came about. -/
structure Explains (o : Seen) (e : Engine) : Prop where
  drv : o.drv = e.drv
  phase : o.phase = e.phase
  cur : o.cur = e.cur
  err : o.err = e.err
  rxv : o.rxv = e.rxv
  rx : e.rxv = true → o.rx = e.rx
  nsmp : e.cur = some .readWord → o.samples.length = e.nsmp
  rxacc : e.cur = some .readWord → ∀ k, k < e.nsmp → o.samples[k]? = some (e.rxacc.getLsbD (15 - k))

theorem explained_iff (e : Engine) : Explained e ↔ Explains (observe e.hist) e :=
  ⟨fun h => { h with }, fun h => { h with }⟩

/-- An event is read after those before it. -/
theorem observe_append_one (hist : List Event) (ev : Event) : observe (hist ++ [ev]) = (observe hist).event ev := by
  simp [observe]

section KeepsExplains

variable {o : Seen} {e : Engine}

/-- A rejection changes nothing that the observer knows (R171). -/
theorem Explains.raise (h : Explains o e) (w : Word) (k : RejectKind) :
    Explains (o.event (.reject w k)) (e.raise w k) := by
  cases k <;> exact { h with }

/-- A `STATUS` write changes nothing that the observer knows, and is no event. -/
theorem Explains.writeStatus (h : Explains o e) (v : Word) : Explains o (e.writeStatus v) :=
  { h with }

theorem Explains.release (h : Explains o e) (l : Line) : Explains (o.event (.drive l .rel)) (e.release l) :=
  { h with drv := congrArg (Pads.set · l .rel) h.drv }

/-- `Reset` shows the state after reset (10_state.md R39). -/
theorem explains_resetTo (o : Seen) (e : Engine) (rx acc : Half) : Explains (o.event .reset) (e.resetTo rx acc) :=
  ⟨rfl, rfl, rfl, rfl, rfl, nofun, nofun, nofun⟩

/-- An acceptance shows the command and its acceptance actions. -/
theorem Explains.accept (h : Explains o e) (p : Params) (c : Cmd) : Explains (o.event (.accept c)) (e.accept p c) := by
  cases c with
  | start => exact ⟨h.drv, h.phase, rfl, rfl, rfl, nofun, nofun, nofun⟩
  | sendByte v => exact ⟨h.drv, h.phase, rfl, h.err, h.rxv, h.rx, nofun, nofun⟩
  | rstart => exact ⟨h.drv, h.phase, rfl, h.err, h.rxv, h.rx, nofun, nofun⟩
  | readWord => exact ⟨h.drv, h.phase, rfl, h.err, rfl, nofun, fun _ => rfl, nofun⟩
  | stop => exact ⟨h.drv, h.phase, rfl, h.err, h.rxv, h.rx, nofun, nofun⟩

/-- A completion shows the completion actions; READ_WORD's result is made of its 16 samples (R150, R151). -/
theorem Explains.complete (h : Explains o e) {c : Cmd} (hc : e.cur = some c) (hn : c = .readWord → e.nsmp = 16)
    (junk : Half) : Explains (o.event (.done c)) (e.complete junk c) := by
  cases c with
  | start => exact ⟨h.drv, rfl, rfl, h.err, h.rxv, h.rx, nofun, nofun⟩
  | sendByte v => exact ⟨h.drv, h.phase, rfl, h.err, h.rxv, h.rx, nofun, nofun⟩
  | rstart => exact ⟨h.drv, h.phase, rfl, h.err, h.rxv, h.rx, nofun, nofun⟩
  | readWord =>
    have hword : wordOfSamples o.samples = assembleWord e.rxacc :=
      wordOfSamples_eq_assembleWord ((h.nsmp hc).trans (hn rfl)) fun k hk => h.rxacc hc k (hn rfl ▸ hk)
    exact ⟨h.drv, h.phase, rfl, h.err, rfl, fun _ => hword, nofun, nofun⟩
  | stop => exact ⟨h.drv, rfl, rfl, h.err, h.rxv, h.rx, nofun, nofun⟩

/-- READ_WORD's samples and their bits of `rxacc`, with one more of each (10_state.md R30). -/
theorem samples_putSample {bs : List Bool} {acc : Half} {n : Nat} (b : Bool) (hn : n < 16) (hlen : bs.length = n)
    (hbs : ∀ k, k < n → bs[k]? = some (acc.getLsbD (15 - k))) :
    ∀ k, k < n + 1 → (bs ++ [b])[k]? = some ((putSample acc n b).getLsbD (15 - k)) := by
  intro k hk
  rw [putSample_getLsbD acc b hn (by omega)]
  by_cases hkn : k = n
  · simp [hkn, ← hlen]
  · rw [List.getElem?_append_left (by omega), hbs k (by omega), if_neg (by omega)]

theorem Seen.sampled_sendByte {v : Byte} {b : Bool} (h : o.cur = some (.sendByte v)) :
    o.sampled b = { o with err := o.err || b } := by
  simp [Seen.sampled, h]

theorem Seen.sampled_readWord {b : Bool} (h : o.cur = some .readWord) :
    o.sampled b = { o with samples := o.samples ++ [b] } := by
  simp [Seen.sampled, h]

theorem Seen.sampled_other {b : Bool} (hs : ∀ v, o.cur ≠ some (.sendByte v)) (hr : o.cur ≠ some .readWord) :
    o.sampled b = o := by
  unfold Seen.sampled
  split
  · exact absurd ‹_› (hs _)
  · exact absurd ‹_› hr
  · rfl

/-- A sample of SDA is delivered to the command in execution, if it takes samples. -/
theorem Explains.deliver (h : Explains o e) (b : Bool) (hn : e.cur = some .readWord → e.nsmp < 16) :
    Explains (o.sampled b) (e.deliver e.cur b) := by
  have hcur := h.cur
  rcases hc : e.cur with _ | c <;> rw [hc] at hcur
  · rwa [Seen.sampled_other (by simp [hcur]) (by simp [hcur])]
  · cases c with
    | sendByte v =>
      rw [Seen.sampled_sendByte hcur]
      exact { h with err := congrArg (· || b) h.err }
    | readWord =>
      rw [Seen.sampled_readWord hcur]
      exact { h with
        nsmp := fun _ => by simp [Engine.deliver, h.nsmp hc]
        rxacc := fun _ => samples_putSample b (hn hc) (h.nsmp hc) (h.rxacc hc) }
    | _ => rwa [Seen.sampled_other (by simp [hcur]) (by simp [hcur])]

/-- A micro-op shows its event. -/
theorem Explains.runUop (h : Explains o e) (b : Bool) (u : Uop) (rest : List Uop)
    (hn : e.cur = some .readWord → u = .smp .sda → e.nsmp < 16) :
    Explains (o.event (uopEvent b u)) (e.runUop b u rest) := by
  rcases u with l | l | (_ | _) | n
  · exact { h with drv := congrArg (Pads.set · l .rel) h.drv }
  · exact { h with drv := congrArg (Pads.set · l .low) h.drv }
  · exact { h with drv := congrArg (Pads.set · .scl .rel) h.drv }
  · let e' : Engine := { (e.setDrv .sda .rel).log (.sample .sda b) with uq := rest, upc := e.upc + 1 }
    have h' : Explains { o with drv := o.drv.set .sda .rel } e' :=
      { h with drv := congrArg (Pads.set · .sda .rel) h.drv }
    exact h'.deliver b fun hc => hn hc rfl
  · exact { h with }

end KeepsExplains

/-- One more event in the history. -/
theorem explained_of_event {e e' : Engine} {ev : Event} (hh : e'.hist = e.hist ++ [ev])
    (h : Explains ((observe e.hist).event ev) e') : Explained e' := by
  rwa [explained_iff, hh, observe_append_one]

/-- Whatever a step makes of the engine, the history accounts for it. -/
theorem Machine.EngineCase.explained {s : State} {e : Engine} {r : Option Line} (hcase : EngineCase s e r) (hinv : Inv s)
    (h : Explained s.eng) : Explained e := by
  have ho := (explained_iff _).1 h
  cases hcase with
  | same => exact h
  | uop c u rest b _ hc hr hq _ =>
    have hx := (hinv.running c hc hr).executed_runUop hc hq b
    exact explained_of_event (Engine.runUop_hist ..) (ho.runUop b u rest (hx.nsmp_lt hc))
  | done c u b junk _ hc hr hq =>
    have hx := (hinv.running c hc hr).executed_runUop hc hq b
    have hm := explained_of_event (Engine.runUop_hist ..) (ho.runUop b u [] (hx.nsmp_lt hc))
    refine explained_of_event (Engine.complete_hist ..) (((explained_iff _).1 hm).complete (by simpa using hc) ?_ junk)
    rintro rfl
    exact hx.nsmp_eq (by simp)
  | reset e rx acc _ _ => exact explained_of_event (Engine.resetTo_hist ..) (explains_resetTo ..)
  | abort l _ _ => exact explained_of_event (Engine.release_hist ..) (ho.release l)
  | raise w k _ => exact explained_of_event (Engine.raise_hist ..) (ho.raise w k)
  | accept c _ _ _ => exact explained_of_event (Engine.accept_hist ..) (ho.accept s.cfg c)
  | status v _ => exact (explained_iff _).2 (ho.writeStatus v)

/-- Settles O41: the eight cases of `EngineCase`, each of whose events shows what the case does. -/
theorem historyExplainsState : Obligations.HistoryExplainsState :=
  fun _ _ hinv h hstep => (step_case hstep).engine.explained hinv h

/-- Settles O37: no command is in execution, no fault flag is set, and `Reset` shows the rest. -/
theorem resetMeetsInvariant : Obligations.ResetMeetsInvariant := by
  intro p agenda
  let e : Engine := { Engine.initial with hist := [] }
  refine ⟨inv_resetTo (State.resetWith p agenda) e 0#16 0#16, ?_, ?_⟩
  · exact explained_of_event (e := e) rfl (explains_resetTo (observe []) e 0#16 0#16)
  · intro k hk
    cases k <;> cases hk

end Sys2Proof

/-! PROOF. Who writes the fault flags, `err`, `phase`, `rx` and `rxv` (O30 to O33): each clause is read off the eight cases of
`EngineCase`, and what reset leaves off `eng_of_resetTakesEffect`. -/

namespace Sys2Proof.Machine

/-- The bit of `STATUS` that holds a fault flag (10_state.md R35). -/
def RejectKind.statusBit : RejectKind → Nat
  | .ill => 4
  | .seq => 5
  | .ovr => 6

/-- `Engine.writeStatus_flag`, with the bit named by `statusBit`. -/
theorem Engine.writeStatus_flag_eq (e : Engine) (v : Word) (k : RejectKind) :
    (e.writeStatus v).flag k = (e.flag k && !v.getLsbD k.statusBit) := by
  cases k <;> rfl

/-- What sets a fault flag (10_state.md R32). -/
theorem EngineCase.flag_set {s : State} {e : Engine} {r : Option Line} {k : RejectKind} (h : EngineCase s e r)
    (hs : s.eng.flag k = false) (he : e.flag k = true) :
    ∃ w, nextAccess s = some (.write s.cfg.engineBase 4 w) ∧ e.hist = s.eng.hist ++ [.reject w k] := by
  cases h with
  | raise w j ha =>
    rw [Engine.raise_flag] at he
    split at he
    · rename_i hkj
      exact ⟨w, ha, by rw [hkj, Engine.raise_hist]⟩
    · simp [hs] at he
  | status v _ => simp [Engine.writeStatus_flag_eq, hs] at he
  | _ => simp [hs] at he

/-- What clears a fault flag (10_state.md R32). -/
theorem EngineCase.flag_cleared {s : State} {e : Engine} {r : Option Line} {k : RejectKind} (h : EngineCase s e r)
    (hs : s.eng.flag k = true) (he : e.flag k = false) :
    (∃ v, nextAccess s = some (.write (s.cfg.engineBase + 4) 4 v) ∧
      v.getLsbD k.statusBit = true) ∨ resetTakesEffect s := by
  cases h with
  | status v ha =>
    rw [Engine.writeStatus_flag_eq] at he
    exact .inl ⟨v, ha, by simpa [hs] using he⟩
  | reset _ _ _ hr _ => exact .inr hr
  | raise w j _ => rw [Engine.raise_flag] at he; split at he <;> simp [hs] at he
  | _ => simp [hs] at he

/-- Settles O30: a rejection sets its flag, a `STATUS` write or reset clears it. -/
theorem faultFlagWriters : Obligations.FaultFlagWriters := by
  intro s t k h
  have hcase := (step_case h).engine
  refine ⟨hcase.flag_set, hcase.flag_cleared, fun hr => ?_⟩
  obtain ⟨e, rx, acc, ht⟩ := eng_of_resetTakesEffect hr h
  rw [ht, Engine.resetTo_flag]

/-- What sets `err` (R140). -/
theorem EngineCase.err_set {s : State} {e : Engine} {r : Option Line} (h : EngineCase s e r)
    (hs : s.eng.err = false) (he : e.err = true) :
    ∃ v rest more, nextTurn s = .engine ∧ s.eng.cur = some (.sendByte v) ∧ s.eng.uq = .smp .sda :: rest ∧
      e.hist = s.eng.hist ++ .sample .sda true :: more := by
  cases h with
  | uop c u rest b ht hc hr hq hrest =>
    obtain herr | ⟨-, ⟨v, hv⟩, rfl, rfl⟩ := s.eng.runUop_err b u rest
    · simp [herr, hs] at he
    · exact ⟨v, rest, [], ht, hv, hq, by simp [uopEvent]⟩
  | done c u b j ht hc hr hq =>
    obtain herr | ⟨-, ⟨v, hv⟩, rfl, rfl⟩ := s.eng.runUop_err b u []
    · simp [herr, hs] at he
    · exact ⟨v, [], [.done c], ht, hv, hq, by simp [uopEvent]⟩
  | accept c _ _ _ => simp [Engine.accept_err, hs] at he
  | _ => simp [hs] at he

/-- What clears `err` (R130). -/
theorem EngineCase.err_cleared {s : State} {e : Engine} {r : Option Line} (h : EngineCase s e r)
    (hs : s.eng.err = true) (he : e.err = false) :
    (nextAccess s = some (.write s.cfg.engineBase 4 0x1000#32) ∧ s.eng.cur = none ∧ e.cur = some .start) ∨
      resetTakesEffect s := by
  cases h with
  | uop c u rest b _ _ _ _ _ => obtain herr | ⟨herr, -⟩ := s.eng.runUop_err b u rest <;> simp [herr, hs] at he
  | done c u b j _ _ _ _ => obtain herr | ⟨herr, -⟩ := s.eng.runUop_err b u [] <;> simp [herr, hs] at he
  | accept c ha hc _ =>
    obtain rfl : c = .start := by simpa [Engine.accept_err, hs] using he
    exact .inl ⟨ha, hc, by simp⟩
  | reset _ _ _ hr _ => exact .inr hr
  | _ => simp [hs] at he

/-- Settles O31: SEND_BYTE's acknowledge sample sets `err`, the acceptance of START or reset clears it. -/
theorem errorFlagWriters : Obligations.ErrorFlagWriters := by
  intro s t h
  have hcase := (step_case h).engine
  refine ⟨hcase.err_set, hcase.err_cleared, fun hr => ?_⟩
  obtain ⟨e, rx, acc, ht⟩ := eng_of_resetTakesEffect hr h
  rw [ht, Engine.resetTo_err]

/-- Who writes `phase` (10_state.md R23). -/
theorem EngineCase.phase_changed {s : State} {e : Engine} {r : Option Line} (h : EngineCase s e r)
    (hne : e.phase ≠ s.eng.phase) :
    (nextTurn s = .engine ∧ e.cur = none ∧ (s.eng.cur = some .start ∨ s.eng.cur = some .stop)) ∨
      resetTakesEffect s := by
  cases h with
  | done c u b j ht hc _ _ =>
    have hcmd : c = .start ∨ c = .stop := by
      by_contra hn
      obtain ⟨hstart, hstop⟩ := not_or.1 hn
      simp [Engine.complete_phase, hstart, hstop] at hne
    exact .inl ⟨ht, by simp, by simpa [hc] using hcmd⟩
  | reset _ _ _ hr _ => exact .inr hr
  | _ => simp at hne

/-- A completion in the engine's turn (R121). -/
theorem EngineCase.completion {s : State} {e : Engine} {r : Option Line} (h : EngineCase s e r) {c : Cmd}
    (ht : nextTurn s = .engine) (hr : s.resetting = none) (hc : s.eng.cur = some c) (he : e.cur = none) :
    ∃ u b junk, s.eng.uq = [u] ∧ e = (s.eng.runUop b u []).complete junk c := by
  cases h with
  | done c' u b j _ hc' _ hq =>
    obtain rfl : c = c' := by simpa [hc] using hc'
    exact ⟨u, b, j, hq, rfl⟩
  | reset _ _ _ hreset _ => simp [resetTakesEffect, ht, hr] at hreset
  | _ => simp [hc] at he

/-- Settles O32: only the completions of START and STOP, and reset, write `phase`. -/
theorem phaseWriters : Obligations.PhaseWriters := by
  intro s t h
  have hcase := (step_case h).engine
  have hreset : resetTakesEffect s → t.eng.phase = .idle := fun hr => by
    obtain ⟨e, rx, acc, ht⟩ := eng_of_resetTakesEffect hr h
    rw [ht, Engine.resetTo_phase]
  refine ⟨fun ht hr hc hn => ?_, fun ht hc hn => ?_, hreset, hcase.phase_changed⟩
  · obtain ⟨u, b, j, -, he⟩ := hcase.completion ht hr hc hn
    simp [he, Engine.complete_phase]
  · by_cases hr : s.resetting = none
    · obtain ⟨u, b, j, -, he⟩ := hcase.completion ht hr hc hn
      simp [he, Engine.complete_phase]
    · exact hreset (.inr ⟨ht, by simp [hc], hr⟩)

/-- What writes `rx` and sets `rxv` (10_state.md R31). -/
theorem EngineCase.rx_written {s : State} {e : Engine} {r : Option Line} (h : EngineCase s e r)
    (hw : e.rx ≠ s.eng.rx ∨ (s.eng.rxv = false ∧ e.rxv = true)) :
    (nextTurn s = .engine ∧ s.eng.cur = some .readWord ∧ e.cur = none) ∨ resetTakesEffect s := by
  cases h with
  | done c u b j ht hc _ _ =>
    refine .inl ⟨ht, ?_, by simp⟩
    by_cases hcr : c = .readWord
    · rwa [← hcr]
    · simp +contextual [Engine.complete_rx, Engine.complete_rxv, hcr] at hw
  | reset _ _ _ hr _ => exact .inr hr
  | accept c _ _ _ =>
    simp only [Engine.accept_rx, ne_eq, not_true, false_or, Engine.accept_rxv] at hw
    obtain ⟨hs, he⟩ := hw
    split at he <;> simp [hs] at he
  | _ => simp +contextual at hw

/-- What clears `rxv` (10_state.md R31). -/
theorem EngineCase.rxv_cleared {s : State} {e : Engine} {r : Option Line} (h : EngineCase s e r)
    (hs : s.eng.rxv = true) (he : e.rxv = false) :
    (s.eng.cur = none ∧ (e.cur = some .start ∨ e.cur = some .readWord) ∧
      ∃ w, nextAccess s = some (.write s.cfg.engineBase 4 w)) ∨ resetTakesEffect s := by
  cases h with
  | accept c ha hc _ =>
    have hcmd : c = .start ∨ c = .readWord := by
      by_contra hn
      simp [Engine.accept_rxv, hn, hs] at he
    exact .inl ⟨hc, by simpa using hcmd, c.word, ha⟩
  | done c u b j _ _ _ _ => simp [Engine.complete_rxv, hs] at he
  | reset _ _ _ hr _ => exact .inr hr
  | _ => simp [hs] at he

/-- Settles O33: READ_WORD's completion writes `rx` and sets `rxv`, an acceptance or reset clears `rxv`. -/
theorem readResultWriters : Obligations.ReadResultWriters := by
  intro s t h
  have hcase := (step_case h).engine
  refine ⟨hcase.rx_written, hcase.rxv_cleared, fun hr => ?_⟩
  obtain ⟨e, rx, acc, ht⟩ := eng_of_resetTakesEffect hr h
  rw [ht, Engine.resetTo_rxv]

end Sys2Proof.Machine

/-! PROOF. The lines in reachable states and at a command's completion (O39, O40), from the invariant. -/

namespace Sys2Proof

open Machine

/-- Every reachable state meets the invariant. -/
theorem reachable_inv {s : State} (h : Reachable s) : Inv s :=
  reachable_induction (fun p agenda => (resetMeetsInvariant p agenda).1) stepKeepsInvariant h

/-- Settles O39, by the Idle invariant. -/
theorem idleLinesReleased : Obligations.IdleLinesReleased := by
  intro s h hp hc
  have hdrv := (reachable_inv h).idleLines hc hp
  exact ⟨congrArg Pads.scl hdrv, congrArg Pads.sda hdrv⟩

/-- Settles O40, by the Active invariant, and by `Executed` at the completion. -/
theorem activeClockLow : Obligations.ActiveClockLow := by
  refine ⟨fun s h hp hc => (reachable_inv h).activeLines hc hp, fun s t c hinv hc hr ht h hn => ?_⟩
  obtain ⟨u, b, junk, hq, he⟩ := (step_case h).engine.completion ht hr hc hn
  have hx := (hinv.running c hc hr).executed_runUop hc hq b
  rw [he]
  exact ⟨(Engine.complete_drv ..).trans (hx.drv_eq_exitLines (Engine.runUop_uq ..)), hx.complete_phase junk⟩

end Sys2Proof

/-! PROOF. The registers (O25, O26) and the state after reset (O34). -/

namespace Sys2Proof.Machine

/-- A host read of a register, with the agenda written out. -/
theorem step_read_cons {s : State} {a : Nat} {r : Reg} {rest : List Turn} (h : s.agenda = .hostRead a 4 :: rest)
    (hr : locate s.cfg a 4 = .reg r) :
    step s = .next { s with agenda := rest, replies := s.replies ++ [s.regValue r], draws := s.draws + 1 } := by
  rw [step_read (nextTurn_cons h) hr, dropTurn_cons h]
  rfl

/-- A host write to a register, with the agenda written out. -/
theorem step_write_cons {s : State} {a : Nat} {r : Reg} {v : Word} {rest : List Turn}
    (h : s.agenda = .hostWrite a 4 v :: rest) (hr : locate s.cfg a 4 = .reg r) :
    step s = writeReg r v { s with agenda := rest } := by
  simp [step, nextTurn_cons h, dropTurn_cons h, takeTurn, accessTurn, hostWriteTurn, hr]

/-- `STATUS` after reset (10_state.md R39). -/
theorem statusWord_initial : Engine.initial.statusWord = 0#32 := by decide

/-- A W1C bit: writing 1 clears the flag, writing 0 leaves it (10_state.md R35). -/
theorem and_not_eq_ite (flag bit : Bool) : (flag && !bit) = if bit then false else flag := by
  cases bit <;> simp

/-- `RXDATA[15:0]` is the half word a read is made of (10_state.md R37). -/
theorem low_half_setWidth (x : Half) : (x.setWidth 32).extractLsb' 0 16 = x := by
  ext i hi
  simp [Nat.lt_trans hi (by decide : 16 < 32), BitVec.getLsbD_eq_getElem hi]

/-- `RXDATA[31:16]` reads 0 (10_state.md R37). -/
theorem high_half_setWidth (x : Half) : (x.setWidth 32).extractLsb' 16 16 = 0#16 := by
  ext i hi
  simp

/-- Settles O25, from the bits of the STATUS word and the equation of its write. -/
theorem statusRegister : Obligations.StatusRegister := by
  refine ⟨fun s rest h => ?_, fun s v rest h => ?_, fun _ _ => statusWord_initial⟩
  · refine ⟨s.eng.statusWord, step_read_cons h (locate_status s.cfg), ?_⟩
    simp only [Engine.statusWord_getLsbD]
    refine ⟨by simp [Engine.busy_iff], by simp, by simp, by simp, by simp, by simp, by simp, by simp, by simp, ?_⟩
    intro i hi
    simp; omega
  · rw [step_write_cons h (locate_status s.cfg)]
    simp only [writeReg, Engine.writeStatus, and_not_eq_ite]

/-- Settles O26, from the equations of a read and of a write of each register. -/
theorem cmdRxdataReserved : Obligations.CmdRxdataReserved := by
  intro s rest
  refine ⟨fun h => step_read_cons h (locate_cmd s.cfg), fun h => ?_, fun h => step_read_cons h (locate_reserved s.cfg),
    fun v h => ?_⟩
  · refine ⟨_, step_read_cons h (locate_rxdata s.cfg), fun hv => ?_, fun hv => ?_, high_half_setWidth _⟩
    · rw [State.regValue, low_half_setWidth, if_pos hv]
    · rw [State.regValue, low_half_setWidth, hv, if_neg Bool.false_ne_true]
  · obtain h | h := h
    · exact step_write_cons h (locate_rxdata s.cfg)
    · exact step_write_cons h (locate_reserved s.cfg)

/-- Settles O34: each value stands in `Engine.initial`, and `STATUS` is computed from it. -/
theorem resetStateValues : Obligations.ResetStateValues := by
  intro p agenda
  refine ⟨rfl, rfl, rfl, rfl, rfl, rfl, rfl, rfl, rfl, rfl, rfl, rfl, rfl, rfl, statusWord_initial, rfl, rfl⟩

end Sys2Proof.Machine

/-! PROOF. The life of BUSY (O16, O17): a write of a legal command's word starts it, and it ends with `Done` or `Reset`. -/

namespace Sys2Proof

open Machine

/-- `STATUS[0]` is BUSY (10_state.md R35). -/
theorem Machine.Engine.statusWord_bit_zero (e : Engine) : e.statusWord.getLsbD 0 = e.busy := by
  rw [Engine.statusWord_getLsbD]
  simp

/-- The word of SEND_BYTE decodes to it: `OP` is 2 and `DATA` is the byte (30_encoding.md R81, R82). -/
theorem decodeCmd_word_sendByte (v : Byte) : decodeCmd (Cmd.sendByte v).word = .ok (.sendByte v) := by
  have hw : (Cmd.sendByte v).word.toNat = 0x2000 + v.toNat := by
    simp only [Cmd.word, commandWord, Cmd.toInstr, encodeNat, BitVec.toNat_ofNat]
    omega
  rw [word_toNat_eq_fields] at hw
  have hhigh : (Cmd.sendByte v).word.extractLsb 31 16 = 0 := by bv_omega
  have hmid : (Cmd.sendByte v).word.extractLsb 11 8 = 0 := by bv_omega
  have hop : ((Cmd.sendByte v).word.extractLsb 15 12).toNat = 2 := by omega
  have hdata : (Cmd.sendByte v).word.extractLsb 7 0 = v := by bv_omega
  unfold decodeCmd
  rw [if_neg (not_not.2 hhigh), if_neg (not_not.2 hmid), hop, hdata]
  rfl

/-- The word of a command decodes to it (30_encoding.md R84). -/
theorem decodeCmd_word (c : Cmd) : decodeCmd c.word = .ok c.toInstr := by
  cases c with
  | sendByte v => exact decodeCmd_word_sendByte v
  | start => decide
  | rstart => decide
  | readWord => decide
  | stop => decide

/-- A legal command written while no command is in execution is accepted (41_bus_transport.md R120). -/
theorem step_accept {s : State} {c : Cmd} {rest : List Turn} (hc : s.eng.cur = none) (hp : s.eng.phase = c.entryPhase)
    (h : s.agenda = .hostWrite s.cfg.engineBase 4 c.word :: rest) :
    step s = .next { s with agenda := rest, eng := s.eng.accept s.cfg c } := by
  rw [step_command (nextTurn_cons h) (decodeCmd_word c), dropTurn_cons h, Engine.submit_accept hc hp]

/-- Settles O16: the write is accepted, and the read returns `STATUS` of the accepted command. -/
theorem acceptanceVisibleAtOnce : Obligations.AcceptanceVisibleAtOnce := by
  intro s c rest hc hp h
  let m : State :=
    { s with agenda := .hostRead (s.cfg.engineBase + 4) 4 :: rest, eng := s.eng.accept s.cfg c }
  have hwrite : step s = .next m := step_accept hc hp h
  have hread := step_read_cons (s := m) rfl (locate_status s.cfg)
  refine ⟨_, m.regValue .status, (runSteps_succ 1 hwrite).trans (runSteps_succ 0 hread), rfl, ?_, Engine.accept_cur ..⟩
  rw [State.regValue, Engine.statusWord_bit_zero]
  exact Engine.busy_some (Engine.accept_cur ..)

/-- How a command in execution stops being so (20_memory.md R61). -/
theorem Machine.EngineCase.cur_lost {s : State} {e : Engine} {r : Option Line} (h : EngineCase s e r) {c : Cmd}
    (hc : s.eng.cur = some c) (hne : e.cur ≠ some c) :
    e.cur = none ∧
      ((nextTurn s = .engine ∧ s.resetting = none ∧ (∃ u, s.eng.uq = [u]) ∧
          ∃ ev, e.hist = s.eng.hist ++ [ev, .done c]) ∨
        resetTakesEffect s) := by
  cases h with
  | done c' u b _ ht hc' hr hq =>
    obtain rfl : c = c' := by simpa [hc] using hc'
    exact ⟨by simp, .inl ⟨ht, hr, ⟨u, hq⟩, uopEvent b u, by simp⟩⟩
  | reset _ _ _ hreset _ => exact ⟨by simp, .inr hreset⟩
  | accept _ _ hidle _ => simp [hidle] at hc
  | _ => simp [hc] at hne

/-- A step only appends to the history (10_state.md R33), and a command it ends has its `Done` or `Reset` there. -/
theorem Machine.EngineCase.hist_appends {s : State} {e : Engine} {r : Option Line} (h : EngineCase s e r) :
    ∃ evs, e.hist = s.eng.hist ++ evs ∧
      ∀ c, s.eng.cur = some c → e.cur = some c ∨ .done c ∈ evs ∨ .reset ∈ evs := by
  cases h with
  | same => exact ⟨[], by simp, fun _ hc => .inl hc⟩
  | uop _ u _ b _ _ _ _ _ => exact ⟨[uopEvent b u], by simp, fun _ hc => .inl (by simpa using hc)⟩
  | done c u b _ _ hc _ _ =>
    refine ⟨[uopEvent b u, .done c], by simp, fun c' hc' => ?_⟩
    obtain rfl : c = c' := by simpa [hc] using hc'
    exact .inr (.inl (by simp))
  | reset e _ _ _ he =>
    obtain rfl | ⟨l, -, rfl⟩ := he
    · exact ⟨[.reset], by simp, by simp⟩
    · exact ⟨[.drive l .rel, .reset], by simp, by simp⟩
  | abort l _ _ => exact ⟨[.drive l .rel], by simp, fun _ hc => .inl (by simpa using hc)⟩
  | raise w k _ => exact ⟨[.reject w k], by simp, fun _ hc => .inl (by simpa using hc)⟩
  | accept c _ hidle _ => exact ⟨[.accept c], by simp, fun _ hc => by simp [hidle] at hc⟩
  | status => exact ⟨[], by simp, fun _ hc => .inl (by simpa using hc)⟩

/-- Since the history was `h`, the command `c` has stayed in execution, or its `Done` or `Reset` has been appended. -/
def InExecutionOrEnded (h : List Event) (c : Cmd) (e : Engine) : Prop :=
  ∃ evs, e.hist = h ++ evs ∧ (e.cur = some c ∨ .done c ∈ evs ∨ .reset ∈ evs)

/-- Every step keeps `InExecutionOrEnded`. -/
theorem InExecutionOrEnded.of_step {h : List Event} {c : Cmd} {s t : State} (hs : InExecutionOrEnded h c s.eng)
    (hstep : step s = .next t) : InExecutionOrEnded h c t.eng := by
  obtain ⟨evs, hh, hcur⟩ := hs
  obtain ⟨more, hmore, hend⟩ := (step_case hstep).engine.hist_appends
  refine ⟨evs ++ more, by rw [hmore, hh, List.append_assoc], ?_⟩
  obtain hc | hd | hr := hcur
  · exact (hend c hc).imp_right (.imp (List.mem_append_right _) (List.mem_append_right _))
  · exact .inr (.inl (List.mem_append_left _ hd))
  · exact .inr (.inr (List.mem_append_left _ hr))

/-- Settles O17, from `EngineCase.cur_lost` for the step and `InExecutionOrEnded` for the run. -/
theorem busyClearsOnlyAtCompletion : Obligations.BusyClearsOnlyAtCompletion := by
  refine ⟨fun s t c h hc hne => (step_case h).engine.cur_lost hc hne, fun k s t c hc hrun hbusy => ?_⟩
  have hstart : InExecutionOrEnded s.eng.hist c s.eng := ⟨[], by simp, .inl hc⟩
  obtain ⟨evs, hh, hcur⟩ := runSteps_keeps (P := fun m => InExecutionOrEnded s.eng.hist c m.eng)
    (fun _ _ hm hstep => hm.of_step hstep) hstart hrun
  rw [State.regValue, Engine.statusWord_bit_zero] at hbusy
  have hidle : t.eng.cur ≠ some c := fun h => by simp [Engine.busy_some h] at hbusy
  exact ⟨evs, hh, hcur.resolve_left hidle⟩

end Sys2Proof

/-! PROOF. Host accesses: where they are admitted (O27, O28), and what they leave alone while BUSY (O29). -/

namespace Sys2Proof.Machine

/-! ## Where an access goes (20_memory.md R50 to R52) -/

/-- The block is the 16 bytes at `ENGINE_BASE` (20_memory.md R50). -/
theorem locate_eq_outside_iff (p : Params) (a n : Nat) :
    locate p a n = .outside ↔ a < p.engineBase ∨ p.engineBase + 16 ≤ a := by
  unfold locate
  split
  · simpa
  · rename_i hin
    simp only [hin, iff_false]
    repeat' split
    all_goals exact nofun

/-- Every offset that is a multiple of 4 is a register's (20_memory.md R51). -/
theorem locate_admitted {p : Params} {off : Nat} (h : off < 16) (h4 : off % 4 = 0) :
    ∃ r, locate p (p.engineBase + off) 4 = .reg r := by
  obtain rfl | rfl | rfl | rfl : off = 0 ∨ off = 4 ∨ off = 8 ∨ off = 12 := by omega
  · exact ⟨.cmd, locate_cmd p⟩
  · exact ⟨.status, locate_status p⟩
  · exact ⟨.rxdata, locate_rxdata p⟩
  · exact ⟨.reserved, locate_reserved p⟩

theorem Reg.offset_mod_four (r : Reg) : r.offset % 4 = 0 := by
  cases r <;> rfl

theorem Reg.offset_eq_zero_iff (r : Reg) : r.offset = 0 ↔ r = .cmd := by
  cases r <;> decide

/-- Inside the block what is not admitted is refused: it is not outside, and `locate_reg` says what an admitted one is. -/
theorem locate_notAdmitted {p : Params} {off n : Nat} (h : off < 16) (hbad : ¬(n = 4 ∧ off % 4 = 0)) :
    locate p (p.engineBase + off) n = .notAdmitted := by
  cases hl : locate p (p.engineBase + off) n with
  | notAdmitted => rfl
  | outside =>
    rw [locate_eq_outside_iff] at hl
    omega
  | reg r =>
    obtain ⟨hn, ha⟩ := locate_reg hl
    obtain rfl : off = r.offset := by omega
    exact absurd ⟨hn, r.offset_mod_four⟩ hbad

/-! ## The host's own access -/

/-- A write of any word to `CMD` reaches a next state (41_bus_transport.md R120). -/
theorem writeCmd_next (w : Word) (s : State) : ∃ t, writeCmd w s = .next t := by
  unfold writeCmd
  split
  · rename_i i hi
    obtain ⟨c, rfl⟩ := decodeCmd_command hi
    exact ⟨_, exec_command c s⟩
  · exact ⟨_, rfl⟩

/-- A write of any word to any register reaches a next state (20_memory.md R54). -/
theorem writeReg_next (r : Reg) (v : Word) (s : State) : ∃ t, writeReg r v s = .next t := by
  cases r with
  | cmd => exact writeCmd_next v s
  | status => exact ⟨_, rfl⟩
  | rxdata => exact ⟨_, rfl⟩
  | reserved => exact ⟨_, rfl⟩

section OwnAccess

variable {s : State} {a n : Nat} {v : Word} {rest : List Turn}
  (h : s.agenda = .hostRead a n :: rest ∨ s.agenda = .hostWrite a n v :: rest)

include h

/-- An access to a register reaches a next state (20_memory.md R52). -/
theorem step_of_locate_reg {r : Reg} (hl : locate s.cfg a n = .reg r) : ∃ t, step s = .next t := by
  obtain h | h := h
  · exact ⟨_, step_read (nextTurn_cons h) hl⟩
  · obtain ⟨t, ht⟩ := writeReg_next r v (dropTurn s)
    exact ⟨t, by simp [step, nextTurn_cons h, takeTurn, accessTurn, hostWriteTurn, hl, ht]⟩

/-- An access that is not admitted is refused (20_memory.md R52). -/
theorem step_of_locate_notAdmitted (hl : locate s.cfg a n = .notAdmitted) : step s = .refused .accessNotAdmitted := by
  obtain h | h := h <;>
    simp [step, nextTurn_cons h, takeTurn, accessTurn, hostReadTurn, hostWriteTurn, hl]

/-- An access outside the block faults (log entry 8). -/
theorem step_of_locate_outside (hl : locate s.cfg a n = .outside) : step s = .fault .noSuchAddress := by
  obtain h | h := h <;>
    simp [step, nextTurn_cons h, takeTurn, accessTurn, hostReadTurn, hostWriteTurn, hl]

end OwnAccess

/-- Settles O27: `locate` gives a register exactly at the admitted accesses of the block. -/
theorem accessAdmission : Obligations.AccessAdmission := by
  refine fun s off bytes v rest hoff h => ⟨?_, fun hbad => ?_⟩
  · rintro ⟨rfl, h4⟩
    obtain ⟨r, hl⟩ := locate_admitted (p := s.cfg) hoff h4
    exact step_of_locate_reg h hl
  · exact step_of_locate_notAdmitted h (locate_notAdmitted hoff hbad)

/-- Settles O28: `locate` gives no register outside the block. -/
theorem accessOutsideBlockFaults : Obligations.AccessOutsideBlockFaults :=
  fun _ _ _ _ _ hout h => step_of_locate_outside h ((locate_eq_outside_iff ..).2 hout)

/-! ## An access while a command is in execution -/

/-- A step that makes an access is the access, and what becomes of its outcome. -/
theorem accessTurn_of_nextAccess {s t : State} {a : Access} (ha : nextAccess s = some a) (h : step s = .next t) :
    ∃ m, accessTurn a (dropTurn s) = .next m ∧ AfterAccess s m t := by
  cases ht : nextTurn s with
  | hostRead b n =>
    obtain rfl : .read b n = a := by simpa [nextAccess, ht] using ha
    exact ⟨t, by simpa [step, ht, takeTurn] using h, .own (by simp [ht])⟩
  | hostWrite b n v =>
    obtain rfl : .write b n v = a := by simpa [nextAccess, ht] using ha
    exact ⟨t, by simpa [step, ht, takeTurn] using h, .own (by simp [ht])⟩
  | host =>
    cases hp : s.program with
    | nil => simp [nextAccess, ht, hp] at ha
    | cons l rest =>
      obtain rfl : l.access s.cfg = a := by simpa [nextAccess, ht, hp] using ha
      simp only [step, ht, takeTurn, hostTurn, dropTurn_program, hp, dropTurn_cfg] at h
      cases hm : accessTurn (l.access s.cfg) (dropTurn s) with
      | next m =>
        simp only [hm, andThen, Host.Outcome.next.injEq] at h
        exact ⟨m, rfl, h ▸ .line l rest ht hp⟩
      | fault => simp [hm, andThen] at h
      | refused => simp [hm, andThen] at h
  | engine => simp [nextAccess, ht] at ha
  | remote => simp [nextAccess, ht] at ha
  | reset => simp [nextAccess, ht] at ha

/-- A read that reaches a next state reads a register (20_memory.md R54). -/
theorem accessTurn_read_next {s m : State} {a n : Nat} (h : accessTurn (.read a n) s = .next m) :
    ∃ r, m = s.readReg r := by
  simp only [accessTurn, hostReadTurn] at h
  split at h
  · cases h; exact ⟨_, rfl⟩
  · cases h
  · cases h

/-- A write that reaches a next state writes a register (20_memory.md R54). -/
theorem accessTurn_write_next {s m : State} {a n : Nat} {v : Word} (h : accessTurn (.write a n v) s = .next m) :
    ∃ r, a = s.cfg.engineBase + Reg.offset r ∧ writeReg r v s = .next m := by
  simp only [accessTurn, hostWriteTurn] at h
  split at h
  · rename_i r hl
    exact ⟨r, (locate_reg hl).2, h⟩
  · cases h
  · cases h

/-- While BUSY a write to `CMD` raises OVR, whatever the word (60_exceptions.md R172). -/
theorem writeCmd_busy {s : State} (w : Word) (hc : s.eng.cur ≠ none) :
    writeCmd w s = .next { s with eng := s.eng.raise w .ovr } := by
  unfold writeCmd
  split
  · rename_i i hi
    obtain ⟨c, rfl⟩ := decodeCmd_command hi
    rw [exec_command, Engine.submit_busy hc, eq_word_of_decodeCmd hi]
  · rw [Engine.submitIllegal_busy hc]

/-- What a write to a register makes of the engine while BUSY. -/
def Engine.writeBusy (e : Engine) (v : Word) : Reg → Engine
  | .cmd => e.raise v .ovr
  | .status => e.writeStatus v
  | .rxdata => e
  | .reserved => e

/-- A write to a register while BUSY is `Engine.writeBusy`. -/
theorem writeReg_busy {s : State} (r : Reg) (v : Word) (hc : s.eng.cur ≠ none) :
    writeReg r v s = .next { s with eng := s.eng.writeBusy v r } := by
  cases r with
  | cmd => exact writeCmd_busy v hc
  | status => rfl
  | rxdata => rfl
  | reserved => rfl

/-- While BUSY a write touches the fault flags and `hist` alone (20_memory.md R63). -/
theorem Engine.writeBusy_frame (e : Engine) (v : Word) (r : Reg) :
    e.writeBusy v r = { e with
      ill := (e.writeBusy v r).ill
      seq := (e.writeBusy v r).seq
      ovr := (e.writeBusy v r).ovr
      hist := (e.writeBusy v r).hist } := by
  cases r <;> rfl

/-- Only a write to `CMD` leaves an event. -/
theorem Engine.writeBusy_hist (e : Engine) (v : Word) {r : Reg} (h : r ≠ .cmd) : (e.writeBusy v r).hist = e.hist := by
  cases r with
  | cmd => exact absurd rfl h
  | status => rfl
  | rxdata => rfl
  | reserved => rfl

/-- Settles O29: a read has no side effect on the engine, and a write does what `Engine.writeBusy` says. -/
theorem hostCannotDisturbCommand : Obligations.HostCannotDisturbCommand := by
  refine fun s t hc h => ⟨?_, fun a n w ha => ?_⟩
  · rintro ⟨a, n, ha⟩
    obtain ⟨m, hm, hafter⟩ := accessTurn_of_nextAccess ha h
    obtain ⟨r, rfl⟩ := accessTurn_read_next hm
    exact ⟨hafter.eng_eq, hafter.resetting_eq⟩
  · obtain ⟨m, hm, hafter⟩ := accessTurn_of_nextAccess ha h
    obtain ⟨r, rfl, hw⟩ := accessTurn_write_next hm
    rw [writeReg_busy (s := dropTurn s) r w hc] at hw
    cases hw
    have he : t.eng = s.eng.writeBusy w r := hafter.eng_eq
    have hcmd : s.cfg.engineBase + r.offset = s.cfg.engineBase ↔ r = .cmd := by
      rw [Nat.add_eq_left, Reg.offset_eq_zero_iff]
    rw [he, dropTurn_cfg]
    refine ⟨Engine.writeBusy_frame .., hafter.resetting_eq, fun ha0 => ?_,
      fun hne => Engine.writeBusy_hist _ _ (mt hcmd.2 hne)⟩
    obtain rfl := hcmd.1 ha0
    exact ⟨rfl, rfl, rfl, rfl⟩

end Sys2Proof.Machine

/-! PROOF. The encoding (O1 to O4, O56). Every instruction is a command or a micro-op (`Instr.cases_command_uop`), and each
of the two decoders has one word for each (`decodeCmd_eq_ok_iff`, `decodeUop_eq_ok_iff`); the decoder on bytes is one of the
two, on the number whose bytes they are. Which command words are illegal is then arithmetic on the words of the commands. -/

namespace Sys2Proof

open Machine

/-! ## Commands and micro-ops -/

/-- The host can issue a command (00_scope.md R14). -/
@[simp] theorem Machine.Cmd.isCommand_toInstr (c : Cmd) : c.toInstr.isCommand = true := by
  cases c <;> rfl

/-- The host cannot issue a micro-op (00_scope.md R14). -/
@[simp] theorem Machine.Uop.isCommand_toInstr (u : Uop) : u.toInstr.isCommand = false := by
  cases u <;> rfl

/-- Every instruction is a command or a micro-op. -/
theorem Instr.cases_command_uop (i : Instr) : (∃ c : Cmd, i = c.toInstr) ∨ ∃ u : Uop, i = u.toInstr := by
  cases i with
  | start => exact .inl ⟨.start, rfl⟩
  | sendByte v => exact .inl ⟨.sendByte v, rfl⟩
  | rstart => exact .inl ⟨.rstart, rfl⟩
  | readWord => exact .inl ⟨.readWord, rfl⟩
  | stop => exact .inl ⟨.stop, rfl⟩
  | rel l => exact .inr ⟨.rel l, rfl⟩
  | low l => exact .inr ⟨.low l, rfl⟩
  | smp l => exact .inr ⟨.smp l, rfl⟩
  | wait n => exact .inr ⟨.wait n, rfl⟩

/-- A command is one 32-bit word (30_encoding.md R85). -/
theorem encodedBytes_command (c : Cmd) : encodedBytes c.toInstr = 4 := by
  simp [encodedBytes]

/-- A micro-op is one 16-bit word (30_encoding.md R86). -/
theorem encodedBytes_uop (u : Uop) : encodedBytes u.toInstr = 2 := by
  simp [encodedBytes]

theorem bitOfLine_lt (l : Line) : bitOfLine l < 2 := by
  cases l <;> decide

/-- A command's word fits `CMD32` (30_encoding.md R80). -/
theorem encodeNat_command_lt (c : Cmd) : encodeNat c.toInstr < 2 ^ 32 := by
  cases c with
  | sendByte v => simp only [Cmd.toInstr, encodeNat]; omega
  | _ => decide

/-- A micro-op's word fits `UOP16` (30_encoding.md R86). -/
theorem encodeNat_uop_lt (u : Uop) : encodeNat u.toInstr < 2 ^ 16 := by
  cases u with
  | wait n => have := n.inRange; simp only [Uop.toInstr, encodeNat]; omega
  | rel l | low l | smp l => have := bitOfLine_lt l; simp only [Uop.toInstr, encodeNat]; omega

/-! ## Command words -/

theorem Machine.Cmd.word_toNat (c : Cmd) : c.word.toNat = encodeNat c.toInstr :=
  Nat.mod_eq_of_lt (encodeNat_command_lt c)

/-- The words of the commands, and no others, decode to them (30_encoding.md R84). -/
theorem decodeCmd_eq_ok_iff (w : Word) (i : Instr) :
    decodeCmd w = .ok i ↔ ∃ c : Cmd, i = c.toInstr ∧ w.toNat = encodeNat c.toInstr := by
  constructor
  · intro h
    obtain ⟨c, rfl⟩ := decodeCmd_command h
    exact ⟨c, rfl, by rw [eq_word_of_decodeCmd h, c.word_toNat]⟩
  · rintro ⟨c, rfl, hw⟩
    obtain rfl : w = c.word := BitVec.eq_of_toNat_eq (hw.trans c.word_toNat.symm)
    exact decodeCmd_word c

/-- The words of 30_encoding.md R81. -/
theorem exists_command_encodeNat_iff (n : Nat) : (∃ c : Cmd, n = encodeNat c.toInstr) ↔
    n = 0x1000 ∨ n / 256 = 0x20 ∨ n = 0x3000 ∨ n = 0x4000 ∨ n = 0x5000 := by
  constructor
  · rintro ⟨c, rfl⟩
    cases c with
    | sendByte v => simp only [Cmd.toInstr, encodeNat]; omega
    | _ => decide
  · rintro (rfl | h | rfl | rfl | rfl)
    · exact ⟨.start, rfl⟩
    · refine ⟨.sendByte (BitVec.ofNat 8 (n % 256)), ?_⟩
      simp only [Cmd.toInstr, encodeNat, BitVec.toNat_ofNat]
      omega
    · exact ⟨.rstart, rfl⟩
    · exact ⟨.readWord, rfl⟩
    · exact ⟨.stop, rfl⟩

/-- A word is illegal exactly when it is the word of no command. -/
theorem decodeCmd_error_iff (w : Word) :
    (∃ x, decodeCmd w = .error x) ↔ ¬∃ c : Cmd, w.toNat = encodeNat c.toInstr := by
  cases h : decodeCmd w with
  | ok i =>
    obtain ⟨c, -, hw⟩ := (decodeCmd_eq_ok_iff w i).1 h
    simpa using ⟨c, hw⟩
  | error x =>
    refine iff_of_true ⟨x, rfl⟩ ?_
    rintro ⟨c, hw⟩
    rw [(decodeCmd_eq_ok_iff w _).2 ⟨c, rfl, hw⟩] at h
    cases h

/-- Settles O2: R83's four cases are what the words of R81 leave, and `step_illegal` is the write of an illegal word. -/
theorem illegalWords : Obligations.IllegalWords := by
  intro w
  refine ⟨?_, ?_, fun s x rest hx hc h => ?_⟩
  · rw [decodeCmd_error_iff, exists_command_encodeNat_iff]
    simp only [List.mem_cons, List.not_mem_nil, or_false]
    omega
  · cases h : decodeCmd w with
    | ok i =>
      obtain ⟨c, rfl⟩ := decodeCmd_command h
      exact .inr ⟨c, rfl⟩
    | error x => exact .inl ⟨x, rfl⟩
  · rw [step_illegal (nextTurn_cons h) hx, dropTurn_cons h, Engine.submitIllegal_idle hc]
    rfl

/-! ## Micro-op words -/

/-- The word of a micro-op. -/
def Machine.Uop.word (u : Uop) : Half := BitVec.ofNat 16 (encodeNat u.toInstr)

theorem Machine.Uop.word_toNat (u : Uop) : u.word.toNat = encodeNat u.toInstr :=
  Nat.mod_eq_of_lt (encodeNat_uop_lt u)

/-- `OP` of a micro-op word (30_encoding.md R86). -/
theorem uopOp_toNat (w : Half) : (w.extractLsb 15 14).toNat = w.toNat / 2 ^ 14 := by
  simp only [BitVec.extractLsb_toNat, Nat.shiftRight_eq_div_pow]
  omega

/-- The line of a REL, LOW or SMP word is its bit 0 (30_encoding.md R86). -/
theorem bitOfLine_lineOfBit_getLsbD (w : Half) : bitOfLine (lineOfBit (w.getLsbD 0)) = w.toNat % 2 := by
  rw [BitVec.getLsbD, Nat.testBit_zero]
  rcases Nat.mod_two_eq_zero_or_one w.toNat with h | h <;> rw [h] <;> rfl

/-- Below `OP`, a REL, LOW or SMP word is the bit of its line (30_encoding.md R86). -/
theorem eq_of_lineOperand {w : Half} {op : Line → Instr} {i : Instr} (h : lineOperand w op = .ok i) :
    ∃ l, i = op l ∧ w.toNat % 2 ^ 14 = bitOfLine l := by
  unfold lineOperand at h
  split at h
  · rename_i hzero
    cases h
    have hmid := congrArg BitVec.toNat hzero
    simp only [BitVec.extractLsb_toNat, Nat.shiftRight_eq_div_pow, BitVec.ofNat_eq_ofNat, BitVec.toNat_ofNat] at hmid
    exact ⟨_, rfl, by rw [bitOfLine_lineOfBit_getLsbD]; omega⟩
  · cases h

/-- `Delay.ofNat?` is the partial inverse of `count`. -/
theorem Delay.ofNat?_eq_some_iff (k : Nat) (n : Delay) : Delay.ofNat? k = some n ↔ n.count = k := by
  unfold Delay.ofNat?
  split
  · cases n
    simp [eq_comm]
  · rename_i hk
    have := n.inRange
    simp only [reduceCtorEq, false_iff]
    rintro rfl
    exact hk this

/-- A word that decodes to a micro-op is that micro-op's word (30_encoding.md R86). -/
theorem eq_word_of_decodeUop {w : Half} {i : Instr} (h : decodeUop w = .ok i) :
    ∃ u : Uop, i = u.toInstr ∧ w.toNat = encodeNat u.toInstr := by
  have hop := uopOp_toNat w
  unfold decodeUop at h
  split at h <;> rename_i hk
  case h_4 h0 h1 =>
    simp only [imp_false] at h0 h1 hk
    split at h
    · rename_i n hn
      cases h
      have hcount := (Delay.ofNat?_eq_some_iff ..).1 hn
      simp only [BitVec.extractLsb_toNat, Nat.shiftRight_zero] at hcount
      exact ⟨.wait n, rfl, by simp only [Uop.toInstr, encodeNat]; omega⟩
    · cases h
  all_goals obtain ⟨l, rfl, hl⟩ := eq_of_lineOperand h
  · exact ⟨.rel l, rfl, by simp only [Uop.toInstr, encodeNat]; omega⟩
  · exact ⟨.low l, rfl, by simp only [Uop.toInstr, encodeNat]; omega⟩
  · exact ⟨.smp l, rfl, by simp only [Uop.toInstr, encodeNat]; omega⟩

/-- The word of WAIT decodes to it: `OP` is 3, and the count is below it (30_encoding.md R86). -/
theorem decodeUop_word_wait (n : Delay) : decodeUop (Uop.wait n).word = .ok (.wait n) := by
  have hw : (Uop.wait n).word.toNat = 0xC000 + n.count := (Uop.wait n).word_toNat
  have hn := n.inRange
  have hop : ((Uop.wait n).word.extractLsb 15 14).toNat = 3 := by rw [uopOp_toNat, hw]; omega
  have hcount : Delay.ofNat? ((Uop.wait n).word.extractLsb 13 0).toNat = some n := by
    rw [Delay.ofNat?_eq_some_iff, BitVec.extractLsb_toNat, Nat.shiftRight_zero, hw]
    omega
  simp only [decodeUop, hop, hcount]

/-- The word of a micro-op decodes to it (30_encoding.md R86). -/
theorem decodeUop_word (u : Uop) : decodeUop u.word = .ok u.toInstr := by
  cases u with
  | rel l | low l | smp l => cases l <;> decide
  | wait n => exact decodeUop_word_wait n

/-- The words of the micro-ops, and no others, decode to them (30_encoding.md R86). -/
theorem decodeUop_eq_ok_iff (w : Half) (i : Instr) :
    decodeUop w = .ok i ↔ ∃ u : Uop, i = u.toInstr ∧ w.toNat = encodeNat u.toInstr := by
  refine ⟨eq_word_of_decodeUop, ?_⟩
  rintro ⟨u, rfl, hw⟩
  obtain rfl : w = u.word := BitVec.eq_of_toNat_eq (hw.trans u.word_toNat.symm)
  exact decodeUop_word u

/-! ## One word for each instruction -/

/-- Settles O3: each decoder accepts the words of its own instructions alone. -/
theorem oneWordPerInstr : Obligations.OneWordPerInstr := by
  refine ⟨fun w i => ?_, fun w i => ?_⟩
  · rw [decodeCmd_eq_ok_iff]
    constructor
    · rintro ⟨c, rfl, hw⟩
      exact ⟨c.isCommand_toInstr, hw⟩
    · rintro ⟨hi, hw⟩
      obtain ⟨c, rfl⟩ | ⟨u, rfl⟩ := i.cases_command_uop
      · exact ⟨c, rfl, hw⟩
      · simp at hi
  · rw [decodeUop_eq_ok_iff]
    constructor
    · rintro ⟨u, rfl, hw⟩
      exact ⟨u.isCommand_toInstr, hw⟩
    · rintro ⟨hi, hw⟩
      obtain ⟨c, rfl⟩ | ⟨u, rfl⟩ := i.cases_command_uop
      · simp at hi
      · exact ⟨u, rfl, hw⟩

/-! ## Bytes -/

/-- Four bytes, lowest first, are the command word whose bytes they are (20_memory.md R55). -/
theorem decodeBytes_bytesLE_four (n : Nat) : decodeBytes (bytesLE 4 n) = decodeCmd (BitVec.ofNat 32 n) := by
  simp only [bytesLE, decodeBytes, wordOfBytes, BitVec.toNat_ofNat]
  congr 1
  apply BitVec.eq_of_toNat_eq
  simp only [BitVec.toNat_ofNat]
  omega

/-- Two bytes, lowest first, are the micro-op word whose bytes they are (log entry 19). -/
theorem decodeBytes_bytesLE_two (n : Nat) : decodeBytes (bytesLE 2 n) = decodeUop (BitVec.ofNat 16 n) := by
  simp only [bytesLE, decodeBytes, halfOfBytes, BitVec.toNat_ofNat]
  congr 1
  apply BitVec.eq_of_toNat_eq
  simp only [BitVec.toNat_ofNat]
  omega

/-- The bytes of an instruction's word decode to it (30_encoding.md R85, R86). -/
theorem decodeBytes_encode (i : Instr) : decodeBytes (encode i) = .ok i := by
  obtain ⟨c, rfl⟩ | ⟨u, rfl⟩ := i.cases_command_uop
  · rw [encode, encodedBytes_command, decodeBytes_bytesLE_four]
    exact decodeCmd_word c
  · rw [encode, encodedBytes_uop, decodeBytes_bytesLE_two]
    exact decodeUop_word u

/-- The word of an instruction fits its length (30_encoding.md R85, R86). -/
theorem encodeNat_lt (i : Instr) : encodeNat i < 2 ^ (8 * encodedBytes i) := by
  obtain ⟨c, rfl⟩ | ⟨u, rfl⟩ := i.cases_command_uop
  · rw [encodedBytes_command]
    exact encodeNat_command_lt c
  · rw [encodedBytes_uop]
    exact encodeNat_uop_lt u

/-- The word of an instruction, in the table's numbering, decodes to it. -/
theorem decodeTableWord_encodeNat (i : Instr) : decodeTableWord (8 * encodedBytes i) (encodeNat i) = some i := by
  have hbytes : decodeBytes (bytesLE (8 * encodedBytes i / 8) (encodeNat i)) = .ok i := by
    rw [Nat.mul_div_cancel_left _ (by decide)]
    exact decodeBytes_encode i
  rw [decodeTableWord, if_pos ⟨encodeNat_lt i, Nat.mul_mod_right ..⟩, hbytes]
  rfl

/-- Settles O1: each decoder reads its own words back, and the bytes of a number are read as that number. -/
theorem decodeOfEncodeIsInstr : Obligations.DecodeOfEncodeIsInstr :=
  fun i => ⟨decodeTableWord_encodeNat i, decodeBytes_encode i⟩

/-- No expansion is as long as 256 micro-ops (10_state.md R28). -/
theorem length_expand_lt (p : Params) (c : Cmd) : (expand p c).length < 256 := by
  cases c <;> simp [expand, expandStart, expandRstart, expandStop]

/-- Settles O56: the lengths of the expansions, and the word of each micro-op. -/
theorem expansionsWellFormed : Obligations.ExpansionsWellFormed := by
  refine fun p c => ⟨length_expand_pos p c, length_expand_lt p c, fun u _ => ⟨?_, fun n _ => n.inRange⟩⟩
  have h := decodeTableWord_encodeNat u.toInstr
  rwa [encodedBytes_uop] at h

/-- Settles O4: the words of instructions by O1, the others by evaluation. -/
theorem printedWordsDecode : Obligations.PrintedWordsDecode := by
  refine ⟨decodeTableWord_encodeNat .start, decodeTableWord_encodeNat (.sendByte 0xA5#8),
    decodeTableWord_encodeNat .rstart, decodeTableWord_encodeNat .readWord, decodeTableWord_encodeNat .stop,
    decodeTableWord_encodeNat (.rel .scl), decodeTableWord_encodeNat (.low .sda), decodeTableWord_encodeNat (.smp .sda),
    decodeTableWord_encodeNat (.wait ⟨90, _⟩), ?_, ?_, ?_, ?_⟩ <;> decide

end Sys2Proof

/-! PROOF. The lines of a host program (O18): a line is its access (`step_host_line`), and what it does with the state after
that access is `afterLine`. -/

namespace Sys2Proof.Machine

section HostLine

variable {s : State} {l : HostLine} {rest : List HostLine} {more : List Turn}
  (h : s.agenda = .host :: more) (hp : s.program = l :: rest)

include h hp

/-- The host's turn is the access of the first line of its program, and what that line does after it (30_encoding.md R88). -/
theorem step_host_line : step s =
    andThen (accessTurn (l.access s.cfg) { s with agenda := more }) (fun t => t.afterLine l rest) := by
  simp only [step, nextTurn_cons h, dropTurn_cons h, takeTurn, hostTurn, hp]

/-- A line that reads a register. -/
theorem step_host_read {a : Nat} {r : Reg} (ha : l.access s.cfg = .read a 4) (hr : locate s.cfg a 4 = .reg r) :
    step s = .next (({ s with agenda := more }.readReg r).afterLine l rest) := by
  rw [step_host_line h hp, ha]
  simp only [accessTurn, hostReadTurn, hr, andThen]

/-- A line that writes a register. -/
theorem step_host_write {a : Nat} {r : Reg} {v : Word} (ha : l.access s.cfg = .write a 4 v)
    (hr : locate s.cfg a 4 = .reg r) :
    step s = andThen (writeReg r v { s with agenda := more }) (fun t => t.afterLine l rest) := by
  rw [step_host_line h hp, ha]
  simp only [accessTurn, hostWriteTurn, hr]

end HostLine

/-- A write to `CMD` acts on the engine alone, so a line can be taken off the program before it as well as after it. -/
theorem writeCmd_program (w : Word) (s : State) (rest : List HostLine) :
    writeCmd w { s with program := rest } = andThen (writeCmd w s) (fun t => { t with program := rest }) := by
  unfold writeCmd
  split
  · rename_i i hi
    obtain ⟨c, rfl⟩ := decodeCmd_command hi
    rw [exec_command, exec_command]
    rfl
  · rfl

/-- A line that writes `CMD` and is then done is that write on the agenda (30_encoding.md R87, R88). -/
theorem step_host_writeCmd {s : State} {l : HostLine} {rest : List HostLine} {more : List Turn} {w : Word}
    (h : s.agenda = .host :: more) (hp : s.program = l :: rest) (ha : l.access s.cfg = .write s.cfg.engineBase 4 w)
    (hdone : ∀ t : State, t.afterLine l rest = { t with program := rest }) :
    step s = step { s with agenda := .hostWrite s.cfg.engineBase 4 w :: more, program := rest } := by
  have hwrite : step { s with agenda := .hostWrite s.cfg.engineBase 4 w :: more, program := rest } =
      writeCmd w { s with agenda := more, program := rest } :=
    step_write_cons (r := .cmd) rfl (locate_cmd s.cfg)
  rw [hwrite, step_host_write h hp ha (locate_cmd s.cfg)]
  simp only [hdone]
  exact (writeCmd_program w { s with agenda := more } rest).symm

/-- A poll of `WAITIDLE` (30_encoding.md R88). -/
theorem step_waitIdle {s : State} {rest : List HostLine} {more : List Turn} (h : s.agenda = .host :: more)
    (hp : s.program = .waitIdle :: rest) :
    step s = .next { s with
      agenda := more
      replies := s.replies ++ [s.eng.statusWord]
      draws := s.draws + 1
      program := if s.eng.statusWord.getLsbD 0 = true then .waitIdle :: rest else rest } := by
  rw [step_host_read h hp rfl (locate_status s.cfg), State.afterLine_waitIdle, State.lastReply_readReg]
  simp only [State.readReg, State.regValue, hp]
  split <;> rfl

/-- `CLRFAULT m` writes to `STATUS` what `m` has in bits 6:4 (30_encoding.md R88). -/
theorem step_clrFault {s : State} {m : Word} {rest : List HostLine} {more : List Turn} (h : s.agenda = .host :: more)
    (hp : s.program = .clrFault m :: rest) :
    step s = .next { s with
      agenda := more
      program := rest
      eng := { s.eng with
        ill := if m.getLsbD 4 then false else s.eng.ill
        seq := if m.getLsbD 5 then false else s.eng.seq
        ovr := if m.getLsbD 6 then false else s.eng.ovr } } := by
  have hmask : ∀ i, (0x70#32).getLsbD i = true → (m &&& 0x70#32).getLsbD i = m.getLsbD i :=
    fun i hi => by rw [BitVec.getLsbD_and, hi, Bool.and_true]
  rw [step_host_write h hp rfl (locate_status s.cfg)]
  simp only [writeReg, Engine.writeStatus, hmask 4 rfl, hmask 5 rfl, hmask 6 rfl, and_not_eq_ite, andThen,
    State.afterLine]

/-- Settles O18: a command line and `CMD` are the write on the agenda, the other lines their read or write of a register. -/
theorem hostLinesMean : Obligations.HostLinesMean := by
  intro s rest more h
  refine ⟨fun c hp => step_host_writeCmd h hp rfl fun _ => rfl, fun w hp => step_host_writeCmd h hp rfl fun _ => rfl,
    step_waitIdle h, fun hp => ?_, fun hp => ⟨s.regValue .rxdata, ?_, fun hv => ?_⟩, fun m => step_clrFault h, fun hp => ?_,
    fun _ => rfl⟩
  · rw [step_host_read h hp rfl (locate_status s.cfg), State.afterLine, State.lastReply_readReg]
    rfl
  · rw [step_host_read h hp rfl (locate_rxdata s.cfg), State.afterLine, State.lastReply_readReg]
    rfl
  · rw [State.regValue, if_pos hv]
  · simp only [step, nextTurn_cons h, dropTurn_cons h, takeTurn, hostTurn, hp]

end Sys2Proof.Machine

/-! PROOF. `WAITIDLE` while a command is in execution (O19). The engine's steps and the host's polls do not touch what the other
looks at: `Waiting` says what any number of both, in any order, have made of a state, as long as a micro-op is left, and one
more of either keeps it. -/

namespace Sys2Proof

open Machine

/-- The event of a micro-op records it (10_state.md R33). -/
@[simp] theorem Machine.uop_uopEvent (b : Bool) (u : Uop) : (uopEvent b u).uop = some u := by
  cases u <;> rfl

/-- A micro-op reaches a next state (40_line_driver.md R100 to R103). -/
theorem Machine.exec_uop_next (u : Uop) (s : State) : ∃ t, exec u.toInstr s = .next t := by
  cases u <;> exact ⟨_, rfl⟩

/-- The engine's step inside a command stays in the engine, runs the head of `uq`, and completes the command when that was
the last one (41_bus_transport.md R121). -/
theorem Machine.step_uop_next {s : State} {c : Cmd} {u : Uop} {rest : List Uop} (ht : nextTurn s = .engine)
    (hc : s.eng.cur = some c) (hr : s.resetting = none) (hq : s.eng.uq = u :: rest) :
    ∃ (t : State) (b : Bool) (junk : Half), step s = .next t ∧ SameOutside (dropTurn s) t ∧ t.resetting = none ∧
      t.eng = if rest = [] then (s.eng.runUop b u []).complete junk c else s.eng.runUop b u rest := by
  obtain ⟨m, hm⟩ := exec_uop_next u ((dropTurn s).popUop rest)
  have hstep := step_uop ht hc hr hq hm
  obtain ⟨b, hb⟩ := exec_popUop_eng hm
  rw [dropTurn_eng] at hb
  obtain ⟨-, -, -, -, -, -, hmr, -⟩ := exec_uop_frame hm
  refine ⟨_, b, Config.freeRxacc m.draws, hstep, exec_uop_finish_sameOutside c hm, ?_, ?_⟩
  · rw [State.finish_resetting, hmr, State.popUop_resetting, dropTurn_resetting, hr]
  · split
    · rename_i hrest
      subst hrest
      rw [State.finish_last (by rw [hb, Engine.runUop_uq]), hb]
    · rename_i hrest
      rw [State.finish_more (by rwa [hb, Engine.runUop_uq]), hb]

/-- What `steps` engine steps and `polls` polls have made of `s`, all of them inside the command `c` and at the line
`WAITIDLE`. -/
structure Waiting (s : State) (c : Cmd) (rest : List HostLine) (steps polls : Nat) (t : State) : Prop where
  inv : Inv t
  cur : t.eng.cur = some c
  resetting : t.resetting = none
  program : t.program = .waitIdle :: rest
  /-- each poll has read `BUSY = 1` -/
  replies : ∃ ws, t.replies = s.replies ++ ws ∧ ws.length = polls ∧ ∀ w ∈ ws, w.getLsbD 0 = true
  /-- the micro-ops run so far are recorded, the others left -/
  ran : ∃ evs, t.eng.hist = s.eng.hist ++ evs ∧ s.eng.uq = evs.filterMap Event.uop ++ t.eng.uq
  /-- each engine step has run one -/
  left : t.eng.uq.length + steps = s.eng.uq.length

section Waiting

variable {s t : State} {c : Cmd} {rest : List HostLine} {steps polls : Nat}

/-- Before the first engine step and poll. -/
theorem Waiting.start (hinv : Inv s) (hc : s.eng.cur = some c) (hr : s.resetting = none)
    (hp : s.program = .waitIdle :: rest) : Waiting s c rest 0 0 s :=
  ⟨hinv, hc, hr, hp, ⟨[], by simp⟩, ⟨[], by simp⟩, rfl⟩

/-- One more engine step that is not the command's last. -/
theorem Waiting.engine (h : Waiting s c rest steps polls t) {more : List Turn} (ha : t.agenda = .engine :: more)
    (hlt : steps + 1 < s.eng.uq.length) :
    ∃ m, step t = .next m ∧ m.agenda = more ∧ Waiting s c rest (steps + 1) polls m := by
  have hleft := h.left
  obtain ⟨u, us, hq⟩ := List.exists_cons_of_length_pos (l := t.eng.uq) (by omega)
  have hlen : us.length + 1 + steps = s.eng.uq.length := by simpa [hq] using hleft
  have hus : us ≠ [] := List.ne_nil_of_length_pos (by omega)
  obtain ⟨m, b, _, hstep, hout, hr, he⟩ := step_uop_next (nextTurn_cons ha) h.cur h.resetting hq
  rw [if_neg hus] at he
  obtain ⟨evs, hhist, huq⟩ := h.ran
  refine ⟨m, hstep, by simp [hout.agenda, ha], ?_⟩
  exact {
    inv := stepKeepsInvariant _ _ h.inv hstep
    cur := by simpa [he] using h.cur
    resetting := hr
    program := hout.program.trans h.program
    replies := by simpa [hout.replies] using h.replies
    ran := ⟨evs ++ [uopEvent b u], by simp [he, hhist], by simp [he, huq, hq]⟩
    left := by simp [he]; omega }

/-- One more poll, which reads `BUSY = 1`. -/
theorem Waiting.poll (h : Waiting s c rest steps polls t) {more : List Turn} (ha : t.agenda = .host :: more) :
    ∃ m, step t = .next m ∧ m.agenda = more ∧ Waiting s c rest steps (polls + 1) m := by
  have hbusy : t.eng.statusWord.getLsbD 0 = true := by rw [Engine.statusWord_bit_zero, Engine.busy_some h.cur]
  obtain ⟨ws, hws, hlen, hall⟩ := h.replies
  refine ⟨_, step_waitIdle ha h.program, rfl, ?_⟩
  exact {
    inv := h.inv.of_eq rfl rfl rfl
    cur := h.cur
    resetting := h.resetting
    program := if_pos hbusy
    replies := ⟨ws ++ [t.eng.statusWord], by simp [hws], by simp [hlen], by simpa [or_imp, forall_and, hbusy] using hall⟩
    ran := h.ran
    left := h.left }

/-- Engine steps and polls in any order, as long as a micro-op is left. -/
theorem Waiting.run {tail : List Turn} (sched : List Turn) (hsched : ∀ a ∈ sched, a = .engine ∨ a = .host)
    (h : Waiting s c rest steps polls t) (ha : t.agenda = sched ++ tail)
    (hlt : steps + sched.count .engine < s.eng.uq.length) :
    ∃ m, runSteps sched.length t = .next m ∧ m.agenda = tail ∧
      Waiting s c rest (steps + sched.count .engine) (polls + sched.count .host) m := by
  induction sched generalizing t steps polls with
  | nil => exact ⟨t, rfl, ha, h⟩
  | cons a sched ih =>
    obtain ⟨ha', htail⟩ := List.forall_mem_cons.1 hsched
    obtain rfl | rfl := ha'
    · simp only [List.count_cons_self] at hlt
      obtain ⟨m, hstep, hm, hw⟩ := h.engine ha (by omega)
      obtain ⟨n, hrun, hn, hwn⟩ := ih htail hw hm (by omega)
      refine ⟨n, (runSteps_succ _ hstep).trans hrun, hn, ?_⟩
      simpa [Nat.add_assoc, Nat.add_comm, Nat.add_left_comm] using hwn
    · obtain ⟨m, hstep, hm, hw⟩ := h.poll ha
      obtain ⟨n, hrun, hn, hwn⟩ := ih htail hw hm (by simpa using hlt)
      refine ⟨n, (runSteps_succ _ hstep).trans hrun, hn, ?_⟩
      simpa [Nat.add_assoc, Nat.add_comm, Nat.add_left_comm] using hwn

/-- The command's last micro-op, and the poll after it. -/
theorem Waiting.finish (h : Waiting s c rest steps polls t) (ha : t.agenda = [.engine, .host])
    (hlast : steps + 1 = s.eng.uq.length) :
    ∃ (m : State) (evs : List Event), runSteps 2 t = .next m ∧ m.program = rest ∧ m.eng.cur = none ∧
      m.eng.hist = s.eng.hist ++ evs ++ [.done c] ∧ evs.filterMap Event.uop = s.eng.uq ∧
      m.eng.drv = c.exitLines ∧ m.eng.phase = c.exitPhase := by
  have hleft := h.left
  obtain ⟨u, hq⟩ := List.length_eq_one_iff.1 (show t.eng.uq.length = 1 by omega)
  obtain ⟨m, b, _, hstep, hout, -, he⟩ := step_uop_next (nextTurn_cons ha) h.cur h.resetting hq
  rw [if_pos rfl] at he
  have hcur : m.eng.cur = none := by simp [he]
  have hexit := activeClockLow.2 _ _ _ h.inv h.cur h.resetting (nextTurn_cons ha) hstep hcur
  have hpoll := step_waitIdle (s := m) (more := []) (by simp [hout.agenda, ha]) (hout.program.trans h.program)
  rw [Engine.statusWord_bit_zero, Engine.busy_none hcur, if_neg Bool.false_ne_true] at hpoll
  obtain ⟨evs, hhist, huq⟩ := h.ran
  exact ⟨_, evs ++ [uopEvent b u], (runSteps_succ 1 hstep).trans (runSteps_succ 0 hpoll), rfl, hcur,
    by simp [he, hhist], by simp [huq, hq], hexit⟩

end Waiting

/-- Settles O19: `Waiting.run` up to the last micro-op, and `Waiting.finish` from there. -/
theorem waitIdleWaitsForCompletion : Obligations.WaitIdleWaitsForCompletion := by
  intro s c rest sched hinv hc hr hp hsched
  have hstart : Waiting s c rest 0 0 s := .start hinv hc hr hp
  refine ⟨fun ha hlt => ?_, fun ha hlast => ?_⟩
  · obtain ⟨t, hrun, -, hw⟩ := hstart.run sched hsched (ha.trans (List.append_nil _).symm) (by omega)
    obtain ⟨ws, hws, hlen, hall⟩ := hw.replies
    exact ⟨t, hrun, hw.program, hw.cur, by simp [hws, hlen], by simpa [hws] using hall⟩
  · obtain ⟨m, hrun, hm, hw⟩ := hstart.run sched hsched ha (by omega)
    obtain ⟨t, evs, hlast, h⟩ := hw.finish hm (by omega)
    exact ⟨t, evs, runSteps_add hrun hlast, h⟩

end Sys2Proof

/-! PROOF. The Line Driver (O5 to O9): what each micro-op makes of the state and of the level of its line, from the outcome of
each instruction in `Laws/Ops.lean`. -/

namespace Sys2Proof.Machine

/-! ## The level of a line (40_line_driver.md R105) -/

theorem State.level_eq_true_iff (s : State) (l : Line) :
    s.level l = true ↔ s.eng.drv.get l = .rel ∧ s.pull.get l = false := by
  simp [State.level]

theorem State.level_eq_false_iff (s : State) (l : Line) :
    s.level l = false ↔ s.eng.drv.get l = .low ∨ s.pull.get l = true := by
  unfold State.level
  cases s.eng.drv.get l <;> simp

/-- The level of a line that the engine has released is the remote device's choice. -/
theorem State.level_of_rel {s : State} {l : Line} (h : s.eng.drv.get l = .rel) : s.level l = !s.pull.get l := by
  simp [State.level, h]

/-- Settles O5: the two cases of R105. -/
theorem lineLevel : Obligations.LineLevel :=
  fun s l => ⟨s.level_eq_false_iff l, s.level_eq_true_iff l⟩

/-! ## REL, LOW and WAIT -/

/-- Settles O6: `release`, and the level of the line it releases. -/
theorem relCompletes : Obligations.RelCompletes := by
  refine ⟨⟨decodeUop_word (.rel .scl), decodeUop_word (.rel .sda)⟩, fun s => ⟨rfl, rfl, fun l t h => ?_⟩⟩
  cases h
  exact State.level_of_rel (Pads.get_set_self s.eng.drv l .rel)

/-- Settles O7: `assertLow`, and the level of the line it drives. -/
theorem lowCompletes : Obligations.LowCompletes := by
  refine ⟨⟨decodeUop_word (.low .scl), decodeUop_word (.low .sda)⟩, fun s => ⟨rfl, rfl, fun l t h => ?_⟩⟩
  cases h
  exact (State.level_eq_false_iff _ l).2 (.inl (Pads.get_set_self s.eng.drv l .low))

/-- Settles O9: the loop of R103 ends with the timer at 0 (`countDown_eq_zero`). -/
theorem waitCompletes : Obligations.WaitCompletes := by
  intro s n
  rw [exec_wait, Engine.delay, countDown_eq_zero]
  rfl

/-! ## SMP and the delivery of its bit -/

/-- What a line that the engine was driving low reads. -/
theorem State.sampled_driven {s : State} {l : Line} (h : s.eng.drv.get l = .low) :
    s.sampled l = Config.freeBit s.draws := by
  simp [State.sampled, h]

/-- The bit of SMP is the only one that R102 allows. -/
theorem State.eq_sampled {s : State} {l : Line} {b : Bool} (hrel : s.eng.drv.get l = .rel → b = !s.pull.get l)
    (hlow : s.eng.drv.get l = .low → b = Config.freeBit s.draws) : b = s.sampled l := by
  cases hd : s.eng.drv.get l with
  | rel => rw [hrel hd, State.sampled_released hd]
  | low => rw [hlow hd, State.sampled_driven hd]

/-- A sample of 1 in SEND_BYTE sets `err`, a sample of 0 leaves it (41_bus_transport.md R140). -/
theorem Engine.deliver_sendByte (e : Engine) (v : Byte) (b : Bool) :
    e.deliver (some (.sendByte v)) b = { e with err := if b then true else e.err } := by
  cases b <;> simp [Engine.deliver]

/-- A sample in READ_WORD goes to `rxacc` (41_bus_transport.md R150). -/
theorem Engine.deliver_readWord (e : Engine) (b : Bool) :
    e.deliver (some .readWord) b = { e with rxacc := putSample e.rxacc e.nsmp b, nsmp := e.nsmp + 1 } := rfl

/-- No other command takes a sample (41_bus_transport.md R121). -/
theorem Engine.deliver_eq_self (e : Engine) {c : Option Cmd} (b : Bool) (hs : ∀ v, c ≠ some (.sendByte v))
    (hr : c ≠ some .readWord) : e.deliver c b = e := by
  match c with
  | none | some .start | some .rstart | some .stop => rfl
  | some (.sendByte v) => exact absurd rfl (hs v)
  | some .readWord => exact absurd rfl hr

/-- Settles O8: the bit is `sampled`, and `deliver` says where it goes. -/
theorem smpCompletes : Obligations.SmpCompletes := by
  intro s l b hrel hlow
  obtain rfl : b = s.sampled l := State.eq_sampled hrel hlow
  refine ⟨?_, ?_, ?_, ?_⟩ <;> rintro rfl
  · exact exec_smp_scl s
  · intro v hc
    rw [exec_smp_sda, hc, Engine.deliver_sendByte]
    rfl
  · intro hc hn
    refine ⟨putSample s.eng.rxacc s.eng.nsmp (s.sampled .sda), fun i hi => putSample_getLsbD _ _ hn hi, ?_⟩
    rw [exec_smp_sda, hc, Engine.deliver_readWord]
    rfl
  · intro hs hr
    rw [exec_smp_sda, Engine.deliver_eq_self _ _ hs hr]
    rfl

end Sys2Proof.Machine

/-! PROOF. The clock line is never read (O51). Every part of a step commutes with a change of the remote device's drive of SCL
(`…_pullScl`): only SMP SCL would read it, and no expansion holds one. -/

namespace Sys2Proof.Machine

/-- `s` with the remote device's drive of SCL changed to `x`. -/
def State.pullScl (s : State) (x : Bool) : State := { s with pull := ⟨x, s.pull.sda⟩ }

@[simp] theorem State.pullScl_eng (s : State) (x : Bool) : (s.pullScl x).eng = s.eng := rfl
@[simp] theorem State.pullScl_cfg (s : State) (x : Bool) : (s.pullScl x).cfg = s.cfg := rfl
@[simp] theorem State.pullScl_program (s : State) (x : Bool) : (s.pullScl x).program = s.program := rfl
@[simp] theorem State.pullScl_resetting (s : State) (x : Bool) : (s.pullScl x).resetting = s.resetting := rfl

/-- What follows an outcome, in two parts. -/
theorem andThen_andThen (o : Host.Outcome State Fault Refusal) (f g : State → State) :
    andThen (andThen o f) g = andThen o (fun t => g (f t)) := by
  cases o <;> rfl

/-! ## No expansion samples SCL (40_line_driver.md R104) -/

theorem smp_scl_notMem_txbit (p : Params) (b : Bool) : Uop.smp .scl ∉ txbit p b :=
  List.count_eq_zero.1 (count_smp_txbit p b .scl)

theorem smp_scl_notMem_expand (p : Params) (c : Cmd) : Uop.smp .scl ∉ expand p c := by
  cases c with
  | start => simp [expand, expandStart]
  | sendByte v => simp [expand, expandSendByte, smp_scl_notMem_txbit, ackPhase]
  | rstart => simp [expand, expandRstart]
  | readWord => simp [expand, expandReadWord, smp_scl_notMem_txbit, rxbyte, rxbit]
  | stop => simp [expand, expandStop]

/-! ## Every part of a step commutes with a change of the drive of SCL -/

theorem State.finish_pullScl (s : State) (c : Cmd) (x : Bool) : (s.pullScl x).finish c = (s.finish c).pullScl x := by
  by_cases h : s.eng.uq = []
  · rw [State.finish_last h, State.finish_last (s := s.pullScl x) h]
    rfl
  · rw [State.finish_more h, State.finish_more (s := s.pullScl x) h]

theorem State.afterLine_pullScl (s : State) (l : HostLine) (rest : List HostLine) (x : Bool) :
    (s.pullScl x).afterLine l rest = (s.afterLine l rest).pullScl x := by
  cases l with
  | waitIdle =>
    rw [State.afterLine_waitIdle, State.afterLine_waitIdle, apply_ite (State.pullScl · x)]
    rfl
  | command _ | raw _ | rdStatus | rdRx | clrFault _ => rfl

theorem State.resetBegin_pullScl (s : State) (l : Line) (x : Bool) :
    (s.pullScl x).resetBegin l = (s.resetBegin l).pullScl x := by
  by_cases hc : s.eng.cur = none
  · rw [State.resetBegin_idle hc, State.resetBegin_idle (s := s.pullScl x) hc]
    rfl
  · cases hr : s.resetting with
    | none =>
      rw [State.resetBegin_abort hc hr, State.resetBegin_abort (s := s.pullScl x) hc hr]
      rfl
    | some k => rw [State.resetBegin_again hc hr, State.resetBegin_again (s := s.pullScl x) hc hr]

theorem exec_uop_pullScl {u : Uop} (hu : u ≠ .smp .scl) (s : State) (x : Bool) :
    exec u.toInstr (s.pullScl x) = andThen (exec u.toInstr s) (·.pullScl x) := by
  cases u with
  | rel l | low l | wait n => rfl
  | smp l =>
    cases l with
    | scl => exact absurd rfl hu
    | sda => rfl

theorem writeCmd_pullScl (w : Word) (s : State) (x : Bool) :
    writeCmd w (s.pullScl x) = andThen (writeCmd w s) (·.pullScl x) := by
  unfold writeCmd
  split
  · rename_i i hi
    obtain ⟨c, rfl⟩ := decodeCmd_command hi
    rw [exec_command, exec_command]
    rfl
  · rfl

theorem writeReg_pullScl (r : Reg) (v : Word) (s : State) (x : Bool) :
    writeReg r v (s.pullScl x) = andThen (writeReg r v s) (·.pullScl x) := by
  cases r with
  | cmd => exact writeCmd_pullScl v s x
  | status | rxdata | reserved => rfl

theorem accessTurn_pullScl (a : Access) (s : State) (x : Bool) :
    accessTurn a (s.pullScl x) = andThen (accessTurn a s) (·.pullScl x) := by
  cases a with
  | read addr bytes =>
    change hostReadTurn addr bytes (s.pullScl x) = andThen (hostReadTurn addr bytes s) _
    unfold hostReadTurn
    rw [State.pullScl_cfg]
    cases locate s.cfg addr bytes <;> rfl
  | write addr bytes v =>
    change hostWriteTurn addr bytes v (s.pullScl x) = andThen (hostWriteTurn addr bytes v s) _
    unfold hostWriteTurn
    rw [State.pullScl_cfg]
    cases locate s.cfg addr bytes with
    | reg r => exact writeReg_pullScl r v s x
    | notAdmitted | outside => rfl

theorem hostTurn_pullScl (s : State) (x : Bool) : hostTurn (s.pullScl x) = andThen (hostTurn s) (·.pullScl x) := by
  unfold hostTurn
  rw [State.pullScl_program]
  cases s.program with
  | nil => rfl
  | cons l rest =>
    simp only [State.pullScl_cfg, accessTurn_pullScl, andThen_andThen, State.afterLine_pullScl]

theorem commandTurn_pullScl (c : Cmd) {s : State} (hs : Uop.smp .scl ∉ s.eng.uq) (x : Bool) :
    commandTurn c (s.pullScl x) = andThen (commandTurn c s) (·.pullScl x) := by
  unfold commandTurn
  rw [State.pullScl_eng]
  cases hq : s.eng.uq with
  | nil => rfl
  | cons u rest =>
    have hu : u ≠ .smp .scl := fun h => hs (by simp [hq, h])
    have hexec : exec u.toInstr ((s.pullScl x).popUop rest) =
        andThen (exec u.toInstr (s.popUop rest)) (·.pullScl x) :=
      exec_uop_pullScl hu (s.popUop rest) x
    simp only [hexec, andThen_andThen, State.finish_pullScl]

theorem engineTurn_pullScl {s : State} (hs : s.resetting = none → Uop.smp .scl ∉ s.eng.uq) (x : Bool) :
    engineTurn (s.pullScl x) = andThen (engineTurn s) (·.pullScl x) := by
  unfold engineTurn
  rw [State.pullScl_eng, State.pullScl_resetting]
  cases s.eng.cur with
  | none => rfl
  | some c =>
    cases hr : s.resetting with
    | none => exact commandTurn_pullScl c (hs hr) x
    | some l => rfl

theorem takeTurn_pullScl {a : Turn} {s : State} (hs : s.resetting = none → Uop.smp .scl ∉ s.eng.uq)
    (ha : ∀ y, a ≠ .remote .scl y) (x : Bool) :
    takeTurn a (s.pullScl x) = andThen (takeTurn a s) (·.pullScl x) := by
  cases a with
  | engine => exact engineTurn_pullScl hs x
  | host => exact hostTurn_pullScl s x
  | hostRead addr bytes => exact accessTurn_pullScl (.read addr bytes) s x
  | hostWrite addr bytes v => exact accessTurn_pullScl (.write addr bytes v) s x
  | remote l y =>
    cases l with
    | scl => exact absurd rfl (ha y)
    | sda => rfl
  | reset first => exact congrArg Host.Outcome.next (s.resetBegin_pullScl first x)

end Sys2Proof.Machine

namespace Sys2Proof

open Machine

/-- Under the invariant the queue holds no SMP SCL: it is the rest of the command's expansion (10_state.md R28). -/
theorem Inv.smp_scl_notMem_uq {s : State} (h : Inv s) (hr : s.resetting = none) : Uop.smp .scl ∉ s.eng.uq := by
  cases hc : s.eng.cur with
  | none => simp [h.noQueue hc]
  | some c =>
    rw [(h.running c hc hr).queue]
    exact fun hmem => smp_scl_notMem_expand s.cfg c (List.mem_of_mem_drop hmem)

/-- Settles O51: no expansion holds SMP SCL, so every turn commutes with the change of the drive (`takeTurn_pullScl`). -/
theorem clockLineNeverRead : Obligations.ClockLineNeverRead := by
  refine ⟨smp_scl_notMem_expand, fun s t x hinv hnext hstep => ?_⟩
  calc takeTurn (nextTurn s) ((dropTurn s).pullScl x)
      = andThen (step s) (·.pullScl x) := takeTurn_pullScl (s := dropTurn s) hinv.smp_scl_notMem_uq hnext x
    _ = .next (t.pullScl x) := by rw [hstep]; rfl

end Sys2Proof

/-! PROOF. The course of the engine does not depend on samples (O52). `SameCourse` is the agreement of two states on what decides
it; each part of a step, taken in two states that agree, reaches states that agree again (`Follows`), because none of them reads
anything else: of the replies, `WAITIDLE` looks at BUSY alone. -/

namespace Sys2Proof.Machine

/-- Two engines agree on the lines as driven, the phase, and the command with its micro-ops. -/
structure Engine.SameCourse (e e' : Engine) : Prop where
  drv : e.drv = e'.drv
  phase : e.phase = e'.phase
  cur : e.cur = e'.cur
  uq : e.uq = e'.uq
  upc : e.upc = e'.upc

/-- Two states agree on what decides which micro-ops run and which commands are accepted (41_bus_transport.md R124, R166). -/
structure SameCourse (s s' : State) : Prop where
  eng : s.eng.SameCourse s'.eng
  cfg : s.cfg = s'.cfg
  resetting : s.resetting = s'.resetting
  program : s.program = s'.program

/-- Where the outcome `o` is a next state, so is `o'`, and the two states agree. -/
def Follows (o o' : Host.Outcome State Fault Refusal) : Prop :=
  ∀ t, o = .next t → ∃ t', o' = .next t' ∧ SameCourse t t'

theorem SameCourse.follows {t t' : State} (h : SameCourse t t') : Follows (.next t) (.next t') := by
  rintro _ ⟨⟩
  exact ⟨t', rfl, h⟩

theorem follows_fault (r : Fault) (o : Host.Outcome State Fault Refusal) : Follows (.fault r) o := by
  intro t h
  cases h

theorem follows_refused (r : Refusal) (o : Host.Outcome State Fault Refusal) : Follows (.refused r) o := by
  intro t h
  cases h

/-- What follows two outcomes that agree. -/
theorem Follows.andThen {o o' : Host.Outcome State Fault Refusal} {f f' : State → State} (h : Follows o o')
    (hf : ∀ t t', o = .next t → o' = .next t' → SameCourse t t' → SameCourse (f t) (f' t')) :
    Follows (andThen o f) (andThen o' f') := by
  intro t ht
  cases o with
  | next m =>
    cases ht
    obtain ⟨m', rfl, hm⟩ := h m rfl
    exact (hf m m' rfl rfl hm).follows _ rfl
  | fault => cases ht
  | refused => cases ht

/-! ## The engine's operations -/

/-- Reset leaves one course, whatever went before (70_reset_and_hazards.md R200). -/
theorem Engine.sameCourse_resetTo (e e' : Engine) (x y x' y' : Half) :
    (e.resetTo x y).SameCourse (e'.resetTo x' y') := by
  constructor <;> rfl

section EngineCourse

variable {e e' : Engine} (h : e.SameCourse e')

include h

/-- A fault changes nothing that decides the course (60_exceptions.md R177). -/
theorem Engine.SameCourse.raise (w w' : Word) (k k' : RejectKind) : (e.raise w k).SameCourse (e'.raise w' k') := by
  constructor <;> simp [h.drv, h.phase, h.cur, h.uq, h.upc]

theorem Engine.SameCourse.accept (p : Params) (c : Cmd) : (e.accept p c).SameCourse (e'.accept p c) := by
  constructor <;> simp [h.drv, h.phase]

/-- Whether a command is accepted is decided by `cur` and `phase` (41_bus_transport.md R120, R125). -/
theorem Engine.SameCourse.submit {p p' : Params} (hp : p = p') (c : Cmd) :
    (e.submit p c).SameCourse (e'.submit p' c) := by
  subst hp
  by_cases hc : e.cur = none
  · have hc' : e'.cur = none := h.cur ▸ hc
    by_cases hp : e.phase = c.entryPhase
    · rw [Engine.submit_accept hc hp, Engine.submit_accept hc' (h.phase ▸ hp)]
      exact h.accept p c
    · rw [Engine.submit_seq hc hp, Engine.submit_seq hc' (h.phase ▸ hp)]
      exact h.raise ..
  · rw [Engine.submit_busy hc, Engine.submit_busy (h.cur ▸ hc)]
    exact h.raise ..

theorem Engine.SameCourse.submitIllegal (w : Word) : (e.submitIllegal w).SameCourse (e'.submitIllegal w) := by
  by_cases hc : e.cur = none
  · rw [Engine.submitIllegal_idle hc, Engine.submitIllegal_idle (h.cur ▸ hc)]
    exact h.raise ..
  · rw [Engine.submitIllegal_busy hc, Engine.submitIllegal_busy (h.cur ▸ hc)]
    exact h.raise ..

/-- The bit that a SMP reads decides nothing (41_bus_transport.md R124). -/
theorem Engine.SameCourse.runUop (b b' : Bool) (u : Uop) (rest : List Uop) :
    (e.runUop b u rest).SameCourse (e'.runUop b' u rest) := by
  constructor <;> simp [h.drv, h.phase, h.cur, h.upc]

theorem Engine.SameCourse.complete (junk junk' : Half) (c : Cmd) :
    (e.complete junk c).SameCourse (e'.complete junk' c) := by
  constructor <;> simp [h.drv, h.phase, h.uq, h.upc, Engine.complete_phase]

theorem Engine.SameCourse.release (l : Line) : (e.release l).SameCourse (e'.release l) := by
  constructor <;> simp [h.drv, h.phase, h.cur, h.uq, h.upc]

end EngineCourse

/-! ## The parts of a step -/

/-- A poll of `WAITIDLE` sees BUSY (10_state.md R35). -/
theorem lastReply_poll {s t : State} (h : accessTurn (HostLine.waitIdle.access s.cfg) s = .next t) :
    t.lastReply.getLsbD 0 = s.eng.cur.isSome := by
  simp only [HostLine.access, accessTurn, hostReadTurn, locate_status] at h
  cases h
  rw [State.lastReply_readReg, State.regValue, Engine.statusWord_bit_zero, Engine.busy]

section Course

variable {s s' : State} (h : SameCourse s s')

include h

theorem SameCourse.dropTurn : SameCourse (dropTurn s) (dropTurn s') := ⟨h.eng, h.cfg, h.resetting, h.program⟩

theorem SameCourse.finish (c : Cmd) : SameCourse (s.finish c) (s'.finish c) := by
  by_cases hq : s.eng.uq = []
  · rw [State.finish_last hq, State.finish_last (h.eng.uq ▸ hq)]
    exact ⟨h.eng.complete _ _ c, h.cfg, h.resetting, h.program⟩
  · rw [State.finish_more hq, State.finish_more (h.eng.uq ▸ hq)]
    exact h

theorem SameCourse.exec_uop (u : Uop) (rest : List Uop) :
    Follows (exec u.toInstr (s.popUop rest)) (exec u.toInstr (s'.popUop rest)) := by
  intro m hm
  obtain ⟨m', hm'⟩ := exec_uop_next u (s'.popUop rest)
  obtain ⟨b, hb⟩ := exec_popUop_eng hm
  obtain ⟨b', hb'⟩ := exec_popUop_eng hm'
  obtain ⟨hcfg, -, -, -, hprogram, -, hresetting, -⟩ := exec_uop_frame hm
  obtain ⟨hcfg', -, -, -, hprogram', -, hresetting', -⟩ := exec_uop_frame hm'
  refine ⟨m', hm', ?_, ?_, ?_, ?_⟩
  · rw [hb, hb']; exact h.eng.runUop b b' u rest
  · rw [hcfg, hcfg']; exact h.cfg
  · rw [hresetting, hresetting']; exact h.resetting
  · rw [hprogram, hprogram']; exact h.program

theorem SameCourse.commandTurn (c : Cmd) : Follows (commandTurn c s) (commandTurn c s') := by
  unfold Machine.commandTurn
  rw [← h.eng.uq]
  cases s.eng.uq with
  | nil => exact follows_fault _ _
  | cons u rest => exact (h.exec_uop u rest).andThen fun _ _ _ _ hm => hm.finish c

theorem SameCourse.engineTurn : Follows (engineTurn s) (engineTurn s') := by
  unfold Machine.engineTurn
  rw [← h.eng.cur, ← h.resetting]
  cases s.eng.cur with
  | none => exact h.follows
  | some c =>
    cases s.resetting with
    | none => exact h.commandTurn c
    | some l =>
      exact SameCourse.follows ⟨Engine.sameCourse_resetTo .., h.cfg, rfl, h.program⟩

theorem SameCourse.readReg (r : Reg) : SameCourse (s.readReg r) (s'.readReg r) :=
  ⟨h.eng, h.cfg, h.resetting, h.program⟩

theorem SameCourse.writeReg (r : Reg) (v : Word) : Follows (writeReg r v s) (writeReg r v s') := by
  cases r with
  | cmd =>
    change Follows (writeCmd v s) (writeCmd v s')
    unfold writeCmd
    split
    · rename_i i hi
      obtain ⟨c, rfl⟩ := decodeCmd_command hi
      rw [exec_command, exec_command]
      exact SameCourse.follows ⟨h.eng.submit h.cfg c, h.cfg, h.resetting, h.program⟩
    · exact SameCourse.follows ⟨h.eng.submitIllegal v, h.cfg, h.resetting, h.program⟩
  | status =>
    have heng : (s.eng.writeStatus v).SameCourse (s'.eng.writeStatus v) :=
      ⟨h.eng.drv, h.eng.phase, h.eng.cur, h.eng.uq, h.eng.upc⟩
    exact SameCourse.follows ⟨heng, h.cfg, h.resetting, h.program⟩
  | rxdata | reserved => exact h.follows

theorem SameCourse.accessTurn (a : Access) : Follows (accessTurn a s) (accessTurn a s') := by
  cases a with
  | read addr bytes =>
    change Follows (hostReadTurn addr bytes s) (hostReadTurn addr bytes s')
    unfold hostReadTurn
    rw [← h.cfg]
    cases locate s.cfg addr bytes with
    | reg r => exact (h.readReg r).follows
    | notAdmitted => exact follows_refused _ _
    | outside => exact follows_fault _ _
  | write addr bytes v =>
    change Follows (hostWriteTurn addr bytes v s) (hostWriteTurn addr bytes v s')
    unfold hostWriteTurn
    rw [← h.cfg]
    cases locate s.cfg addr bytes with
    | reg r => exact h.writeReg r v
    | notAdmitted => exact follows_refused _ _
    | outside => exact follows_fault _ _

/-- A line is done in both states, unless it is a `WAITIDLE` that sees two different BUSY bits (30_encoding.md R88). -/
theorem SameCourse.afterLine (l : HostLine) (rest : List HostLine)
    (hw : l = .waitIdle → s.lastReply.getLsbD 0 = s'.lastReply.getLsbD 0) :
    SameCourse (s.afterLine l rest) (s'.afterLine l rest) := by
  cases l with
  | waitIdle =>
    rw [State.afterLine_waitIdle, State.afterLine_waitIdle, hw rfl]
    split
    · exact h
    · exact ⟨h.eng, h.cfg, h.resetting, rfl⟩
  | command _ | raw _ | rdStatus | rdRx | clrFault _ => exact ⟨h.eng, h.cfg, h.resetting, rfl⟩

theorem SameCourse.hostTurn : Follows (hostTurn s) (hostTurn s') := by
  unfold Machine.hostTurn
  rw [← h.program]
  cases s.program with
  | nil => exact h.follows
  | cons l rest =>
    rw [← h.cfg]
    refine (h.accessTurn _).andThen fun t t' ht ht' hm => hm.afterLine l rest ?_
    rintro rfl
    rw [lastReply_poll ht, lastReply_poll (h.cfg ▸ ht'), h.eng.cur]

theorem SameCourse.resetBegin (l : Line) : SameCourse (s.resetBegin l) (s'.resetBegin l) := by
  by_cases hc : s.eng.cur = none
  · rw [State.resetBegin_idle hc, State.resetBegin_idle (h.eng.cur ▸ hc)]
    exact ⟨Engine.sameCourse_resetTo .., h.cfg, rfl, h.program⟩
  · cases hr : s.resetting with
    | none =>
      rw [State.resetBegin_abort hc hr, State.resetBegin_abort (h.eng.cur ▸ hc) (h.resetting ▸ hr)]
      exact ⟨h.eng.release l, h.cfg, rfl, h.program⟩
    | some k =>
      rw [State.resetBegin_again hc hr, State.resetBegin_again (h.eng.cur ▸ hc) (h.resetting ▸ hr)]
      exact h

theorem SameCourse.takeTurn (a : Turn) : Follows (takeTurn a s) (takeTurn a s') := by
  cases a with
  | engine => exact h.engineTurn
  | host => exact h.hostTurn
  | hostRead addr bytes => exact h.accessTurn (.read addr bytes)
  | hostWrite addr bytes v => exact h.accessTurn (.write addr bytes v)
  | remote l x => exact SameCourse.follows ⟨h.eng, h.cfg, h.resetting, h.program⟩
  | reset first => exact (h.resetBegin first).follows

end Course

/-- Settles O52: every turn, taken in two states that agree, reaches states that agree (`SameCourse.takeTurn`). -/
theorem courseIndependentOfSamples : Obligations.CourseIndependentOfSamples := by
  rintro s s' t ⟨hcfg, hdrv, hphase, hcur, huq, hupc, hresetting, hprogram⟩ hnext hstep
  have h : SameCourse s s' := ⟨⟨hdrv, hphase, hcur, huq, hupc⟩, hcfg, hresetting, hprogram⟩
  have hturn : Follows (step s) (step s') := by
    unfold step
    rw [← hnext]
    exact h.dropTurn.takeTurn (nextTurn s)
  obtain ⟨t', hstep', ht⟩ := hturn t hstep
  exact ⟨t', hstep', ht.cfg, ht.eng.drv, ht.eng.phase, ht.eng.cur, ht.eng.uq, ht.eng.upc, ht.resetting, ht.program⟩

end Sys2Proof.Machine

/-! PROOF. The acceptance of commands (O10 to O15, O20): a command's instruction, or a write of its word, is `Engine.submit`, and
the cases of that are OVR, SEQ and acceptance. -/

namespace Sys2Proof.Machine

/-- A command in its phase is accepted (41_bus_transport.md R120). -/
theorem exec_accept {s : State} {c : Cmd} (hc : s.eng.cur = none) (hp : s.eng.phase = c.entryPhase) :
    exec c.toInstr s = .next { s with eng := s.eng.accept s.cfg c } := by
  rw [exec_command, Engine.submit_accept hc hp]

/-- Settles O10, from `exec_accept`: `expandStart` and START's acceptance actions written out. -/
theorem startCompletes : Obligations.StartCompletes :=
  fun _ hc hp => exec_accept (c := .start) hc hp

/-- A data bit is put on SDA by driving a 0 and releasing a 1 (41_bus_transport.md R123). -/
theorem dataUop_eq (x : Bool) : dataUop x = if x = false then .low .sda else .rel .sda := by
  cases x <;> rfl

/-- Settles O11, from `exec_accept`: `expandSendByte` written out. -/
theorem sendByteCompletes : Obligations.SendByteCompletes := by
  intro s v hc hp
  refine (exec_accept (c := .sendByte v) hc hp).trans ?_
  simp only [← dataUop_eq]
  rfl

/-- Settles O12, from `exec_accept`: `expandRstart` written out. -/
theorem rstartCompletes : Obligations.RstartCompletes :=
  fun _ hc hp => exec_accept (c := .rstart) hc hp

/-- Settles O13, from `exec_accept`: `expandReadWord` and READ_WORD's acceptance actions written out. -/
theorem readWordCompletes : Obligations.ReadWordCompletes :=
  fun _ hc hp => exec_accept (c := .readWord) hc hp

/-- Settles O14, from `exec_accept`: `expandStop` written out. -/
theorem stopCompletes : Obligations.StopCompletes :=
  fun _ hc hp => exec_accept (c := .stop) hc hp

/-- A write to `CMD` of a word that decodes to `i` is `exec i` (41_bus_transport.md R120). -/
theorem writeCmd_ok {w : Word} {i : Instr} (h : decodeCmd w = .ok i) (s : State) : writeCmd w s = exec i s := by
  simp [writeCmd, h]

/-- Settles O20: the step is the write to `CMD`, and the write is `exec`. -/
theorem stepRunsWrittenCommand : Obligations.StepRunsWrittenCommand := by
  intro s w i rest h hd
  rw [step_write_cons (r := .cmd) h (locate_cmd s.cfg)]
  exact writeCmd_ok hd _

/-- START is out of phase unless Idle, every other command unless Active (41_bus_transport.md R120). -/
theorem out_of_phase_iff (c : Cmd) (p : Phase) :
    (c = .start ∧ p ≠ .idle ∨ c ≠ .start ∧ p ≠ .active) ↔ p ≠ c.entryPhase := by
  cases c <;> simp [Cmd.entryPhase]

/-- A command written out of phase while no command is in execution is rejected (41_bus_transport.md R120). -/
theorem step_reject_seq {s : State} {c : Cmd} {rest : List Turn} (hc : s.eng.cur = none)
    (hp : s.eng.phase ≠ c.entryPhase) (h : s.agenda = .hostWrite s.cfg.engineBase 4 c.word :: rest) :
    step s = .next { s with agenda := rest, eng := s.eng.raise c.word .seq } := by
  rw [step_command (nextTurn_cons h) (decodeCmd_word c), dropTurn_cons h, Engine.submit_seq hc hp]

/-- Settles O15: OVR while BUSY (`writeCmd_busy`), else ILL (`step_illegal`), else SEQ (`step_reject_seq`), else acceptance
(`step_accept`). -/
theorem commandWrite : Obligations.CommandWrite := by
  refine fun s w rest h => ⟨fun hc => ?_, fun hc x hx => ?_, fun hc c hd hp => ?_, fun hc c hd hp => ?_,
    fun i hi => decodeCmd_command hi⟩
  · rw [step_write_cons (r := .cmd) h (locate_cmd s.cfg)]
    exact writeCmd_busy w hc
  · rw [step_illegal (nextTurn_cons h) hx, dropTurn_cons h, Engine.submitIllegal_idle hc]
    rfl
  · obtain rfl := eq_word_of_decodeCmd hd
    exact step_reject_seq hc ((out_of_phase_iff c _).1 hp) h
  · obtain rfl := eq_word_of_decodeCmd hd
    rw [out_of_phase_iff, not_not] at hp
    rw [step_accept hc hp h, Engine.accept, Engine.log, Engine.acceptActions_hist]

end Sys2Proof.Machine

/-! PROOF. The expansions' sizes (O53) and the canonical register read (O55). -/

namespace Sys2Proof

open Machine

/-- The acknowledge phase holds the one sample of SEND_BYTE (R140). -/
theorem count_smp_expandSendByte (p : Params) (v : Byte) : (expandSendByte p v).count (.smp .sda) = 1 := by
  rw [expandSendByte_eq]
  simp only [List.count_append, count_smp_txbit, Nat.zero_add]
  rfl

theorem nominal_expandSendByte (p : Params) (v : Byte) : nominal (expandSendByte p v) =
    8 * (p.nBitSetup.count + p.nBitHigh.count + p.nBitLow.count) + p.nAckSetup.count + p.nAckWin.count +
      p.nAckHold.count := by
  simp only [expandSendByte_eq, nominal_append, nominal_txbit, ackPhase, nominal]
  omega

theorem nominal_rxbyte (p : Params) : nominal (rxbyte p) = 8 * nominal (rxbit p) := by
  simp only [rxbyte, List.replicate_succ, List.replicate_zero, List.flatten_cons, List.flatten_nil, nominal_append,
    nominal_nil]
  omega

theorem nominal_expandReadWord (p : Params) : nominal (expandReadWord p) =
    16 * (p.nBitSetup.count + p.nRdPre.count + p.nRdPost.count + p.nBitLow.count) +
      2 * (p.nBitSetup.count + p.nBitHigh.count + p.nBitLow.count) + p.nRdAckSettle.count + p.nRdNackSettle.count := by
  simp only [expandReadWord, nominal_append, nominal_rxbyte, nominal_rxbit, nominal_txbit, nominal]
  omega

/-- Settles O53: the lemmas on the cells add up; START, RSTART and STOP are computed. -/
theorem expansionSizes : Obligations.ExpansionSizes := by
  intro p v
  refine ⟨⟨rfl, length_expandSendByte p v, rfl, length_expandReadWord p, rfl⟩,
    ⟨rfl, count_smp_expandSendByte p v, rfl, count_smp_expandReadWord p, rfl⟩, ?_, nominal_expandSendByte p v, ?_,
    nominal_expandReadWord p, rfl, ⟨rfl, nominal_expandSendByte defaultParams v, rfl, rfl, rfl⟩,
    fun x => nominal_txbit defaultParams x, rfl⟩ <;>
  · simp only [expand, expandStart, expandRstart, nominal]
    omega

/-- The nominal duration of SEND_BYTE at the defaults does not depend on the byte (R122). -/
theorem nominal_sendByte_default (v : Byte) : nominal (expand defaultParams (.sendByte v)) = 125 :=
  nominal_expandSendByte defaultParams v

/-- Settles O55: the register read is one transaction, and its durations add up. -/
theorem registerReadInGrammar : Obligations.RegisterReadInGrammar := by
  intro wa rp ra
  refine ⟨rfl, rfl, ?_, ?_⟩
  · refine .transaction [.sendByte wa, .sendByte rp, .rstart, .sendByte ra, .readWord] [] ?_ .empty
    simp [Cmd.inner]
  · simp only [registerReadCommands, List.map_cons, List.map_nil, nominal_sendByte_default]
    rfl

end Sys2Proof

/-! PROOF. Word assembly (O46). A word is determined by its samples, and the samples by the word: sample `k` of a word is bit
`7 - k` of it, or bit `23 - k` in the high byte. -/

namespace Sys2Proof

open Machine

/-- The accumulator after the samples `bs`, from sample number 0 on (10_state.md R30). -/
theorem samples_foldl_putSample {bs : List Bool} (acc : Half) {n : Nat} (hn : n ≤ 16) (hlen : bs.length = 16) :
    ∀ k, k < n → bs[k]? = some
      (((List.range n).foldl (fun r k => putSample r k (bs.getD k false)) acc).getLsbD (15 - k)) := by
  induction n with
  | zero => intro k hk; omega
  | succ n ih =>
    intro k hk
    rw [List.range_succ, List.foldl_append, List.foldl_cons, List.foldl_nil, putSample_getLsbD _ _ hn (by omega)]
    by_cases hkn : k = n
    · subst hkn
      rw [if_pos rfl, List.getD_eq_getElem?_getD, List.getElem?_eq_getElem (by omega), Option.getD_some]
    · rw [if_neg (by omega)]
      exact ih (by omega) k (by omega)

/-- R150's assembly, bit by bit: the two bytes are swapped. -/
theorem assembleWord_getLsbD (acc : Half) {k : Nat} (hk : k < 8) :
    (assembleWord acc).getLsbD (7 - k) = acc.getLsbD (15 - k) ∧
    (assembleWord acc).getLsbD (15 - k) = acc.getLsbD (15 - (8 + k)) := by
  have hlow : 8 + (7 - k) = 15 - k := by omega
  have hhigh : 15 - k - 8 = 15 - (8 + k) := by omega
  have h8 : ¬15 - k < 8 := by omega
  have h16 : 15 - k < 16 := by omega
  constructor
  · simp [assembleWord, hlow, show 7 - k < 16 by omega, show 7 - k < 8 by omega]
  · simp [assembleWord, hhigh, h8, h16, show ¬15 - k ≤ 7 by omega, show 15 - (8 + k) < 8 by omega]

/-- Every 16 samples are the bits of some accumulator (10_state.md R30). -/
theorem exists_acc_of_samples {bs : List Bool} (hlen : bs.length = 16) :
    ∃ acc : Half, ∀ k, k < 16 → bs[k]? = some (acc.getLsbD (15 - k)) :=
  ⟨_, samples_foldl_putSample 0#16 (Nat.le_refl 16) hlen⟩

/-- The bits of a word, from its samples in time order (41_bus_transport.md R151). -/
theorem wordOfSamples_getLsbD {bs : List Bool} (hlen : bs.length = 16) {k : Nat} (hk : k < 8) :
    (wordOfSamples bs).getLsbD (7 - k) = bs.getD k false ∧
    (wordOfSamples bs).getLsbD (15 - k) = bs.getD (8 + k) false := by
  obtain ⟨acc, hacc⟩ := exists_acc_of_samples hlen
  rw [wordOfSamples_eq_assembleWord hlen hacc]
  obtain ⟨hlow, hhigh⟩ := assembleWord_getLsbD acc hk
  simp [hlow, hhigh, List.getD_eq_getElem?_getD, hacc k (by omega), hacc (8 + k) (by omega)]

/-- A word comes from one string of samples only (41_bus_transport.md R151). -/
theorem eq_of_wordOfSamples_eq {bs bs' : List Bool} (hlen : bs.length = 16) (hlen' : bs'.length = 16)
    (h : wordOfSamples bs = wordOfSamples bs') : bs = bs' := by
  have hbyte : ∀ k, k < 8 → bs.getD k false = bs'.getD k false ∧ bs.getD (8 + k) false = bs'.getD (8 + k) false := by
    intro k hk
    obtain ⟨hlow, hhigh⟩ := wordOfSamples_getLsbD hlen hk
    obtain ⟨hlow', hhigh'⟩ := wordOfSamples_getLsbD hlen' hk
    exact ⟨by rw [← hlow, ← hlow', h], by rw [← hhigh, ← hhigh', h]⟩
  refine List.ext_getElem (hlen.trans hlen'.symm) fun i hi hi' => ?_
  rw [← List.getD_eq_getElem _ false hi, ← List.getD_eq_getElem _ false hi']
  by_cases h8 : i < 8
  · exact (hbyte i h8).1
  · rw [show i = 8 + (i - 8) by omega]
    exact (hbyte (i - 8) (by omega)).2

/-- `n` bits give a number below `2 ^ n`. -/
theorem bitsValue_lt (bs : List Bool) : bitsValue bs < 2 ^ bs.length := by
  induction bs using List.reverseRecOn with
  | nil => simp [bitsValue]
  | append_singleton bs b ih =>
    rw [bitsValue_append_one, List.length_append, List.length_singleton, Nat.pow_succ]
    have := b.toNat_le
    omega

/-- `low | (high << 8)` (41_bus_transport.md R151). -/
theorem wordOfSamples_toNat {bs : List Bool} (hlen : bs.length = 16) :
    (wordOfSamples bs).toNat = bitsValue (bs.take 8) ||| (bitsValue (bs.drop 8) <<< 8) := by
  have hlow : bitsValue (bs.take 8) < 2 ^ 8 := by simpa [hlen] using bitsValue_lt (bs.take 8)
  have hhigh : bitsValue (bs.drop 8) < 2 ^ 8 := by simpa [hlen] using bitsValue_lt (bs.drop 8)
  rw [Nat.or_comm, ← Nat.shiftLeft_add_eq_or_of_lt hlow, Nat.shiftLeft_eq, wordOfSamples, BitVec.toNat_ofNat,
    Nat.mod_eq_of_lt (by omega)]
  omega

/-- The bits of a byte, most significant first, give it back (20_memory.md R56). -/
theorem bitsValue_byteBits (v : Byte) : bitsValue (byteBits v) = v.toNat := by
  rw [bitsValue_of_getElem? (n := 8) (x := v.toNat) rfl, Nat.mod_eq_of_lt v.isLt]
  intro k hk
  interval_cases k <;> rfl

/-- A word sent low byte first, each byte most significant bit first, assembles to it (41_bus_transport.md R151). -/
theorem wordOfSamples_byteBits (w : Half) :
    wordOfSamples (byteBits (w.extractLsb' 0 8) ++ byteBits (w.extractLsb' 8 8)) = w := by
  have hlow : (byteBits (w.extractLsb' 0 8) ++ byteBits (w.extractLsb' 8 8)).take 8 = byteBits (w.extractLsb' 0 8) := rfl
  have hhigh : (byteBits (w.extractLsb' 0 8) ++ byteBits (w.extractLsb' 8 8)).drop 8 = byteBits (w.extractLsb' 8 8) := rfl
  rw [wordOfSamples, hlow, hhigh, bitsValue_byteBits, bitsValue_byteBits]
  apply BitVec.eq_of_toNat_eq
  simp only [BitVec.toNat_ofNat, BitVec.extractLsb'_toNat, Nat.shiftRight_eq_div_pow]
  omega

/-- Settles O46: the accumulator holds the samples (`samples_foldl_putSample`), and a word's bits are its samples. -/
theorem wordAssembly : Obligations.WordAssembly := by
  refine ⟨?_, fun w => ?_, wordOfSamples_byteBits⟩
  · intro bs acc hlen word
    have hword : word = wordOfSamples bs :=
      (wordOfSamples_eq_assembleWord hlen (samples_foldl_putSample acc (Nat.le_refl 16) hlen)).symm
    rw [hword]
    exact ⟨rfl, wordOfSamples_toNat hlen, fun k hk => wordOfSamples_getLsbD hlen hk⟩
  · exact ⟨_, ⟨rfl, wordOfSamples_byteBits w⟩,
      fun bs h => eq_of_wordOfSamples_eq h.1 rfl (h.2.trans (wordOfSamples_byteBits w).symm)⟩

end Sys2Proof

/-! PROOF. A command runs to completion (O21, O43). An engine step runs one of its micro-ops, and the last one completes it
(`step_in_command`); the other agents' actions leave the command as it is (`step_beside_command`); so each action on the agenda and
each micro-op left takes one step. -/

namespace Sys2Proof

open Machine

/-- The completion of a command, field by field (41_bus_transport.md R121). -/
theorem Machine.Engine.complete_eq (e : Engine) (junk : Half) (c : Cmd) : e.complete junk c = { e with
    cur := none
    phase := if c = .start then .active else if c = .stop then .idle else e.phase
    rx := if c = .readWord then assembleWord e.rxacc else e.rx
    rxv := if c = .readWord then true else e.rxv
    rxacc := if c = .readWord then junk else e.rxacc
    hist := e.hist ++ [.done c] } := by
  cases c <;> rfl

/-- Settles O21: the step is `exec` of the head and `finish`, which completes the command when no micro-op is left. -/
theorem stepRunsHeadMicroOp : Obligations.StepRunsHeadMicroOp := by
  intro s c u rest ha hc hr hq
  have ht : nextTurn s = .engine := by
    obtain ha | ⟨more, ha⟩ := ha
    · exact nextTurn_nil ha
    · exact nextTurn_cons ha
  obtain ⟨m, hm⟩ := exec_uop_next u ((dropTurn s).popUop rest)
  have hstep := step_uop ht hc hr hq hm
  obtain ⟨-, -, -, -, -, -, -, -, -, huq, -⟩ := exec_uop_frame hm
  refine ⟨m, hm, fun hrest => ?_, fun hrest => ?_⟩
  · rwa [State.finish_more (by rwa [huq])] at hstep
  · rw [hstep, State.finish_last (by rw [huq]; exact hrest), Engine.complete_eq]

/-! ## One step while a command is in execution -/

/-- Inside a command a micro-op is left (10_state.md R27). -/
theorem Running.uq_ne_nil {p : Params} {c : Cmd} {e : Engine} (h : Running p c e) : e.uq ≠ [] := by
  rw [h.queue, ne_eq, List.drop_eq_nil_iff, Nat.not_le]
  exact h.notOver

/-- `k` steps from `s` complete the command `c`, and append the events `evs` and `Done`: those of its micro-ops left, in order,
perhaps among others. -/
structure Completes (s : State) (c : Cmd) (k : Nat) (evs : List Event) (t : State) : Prop where
  run : runSteps k s = .next t
  inv : Inv t
  cur : t.eng.cur = none
  hist : t.eng.hist = s.eng.hist ++ evs ++ [.done c]
  ran : evs.filterMap Event.uop = s.eng.uq
  drv : t.eng.drv = c.exitLines
  phase : t.eng.phase = c.exitPhase
  agenda : t.agenda = s.agenda.drop k
  cfg : t.cfg = s.cfg

/-- One step more at the beginning. -/
theorem Completes.of_step {s m t : State} {c : Cmd} {k : Nat} {evs more : List Event} (hstep : step s = .next m)
    (hhist : m.eng.hist = s.eng.hist ++ more) (huq : s.eng.uq = more.filterMap Event.uop ++ m.eng.uq)
    (h : Completes m c k evs t) : Completes s c (k + 1) (more ++ evs) t where
  run := (runSteps_succ k hstep).trans h.run
  inv := h.inv
  cur := h.cur
  hist := by rw [h.hist, hhist]; simp
  ran := by rw [List.filterMap_append, h.ran, huq]
  drv := h.drv
  phase := h.phase
  agenda := by rw [h.agenda, (step_case hstep).outside.agenda_eq, List.drop_tail]
  cfg := h.cfg.trans (step_case hstep).outside.cfg_eq

/-- The engine's step inside a command: its last micro-op completes it, any other leaves it in execution. -/
theorem step_in_command {s : State} {c : Cmd} (hinv : Inv s) (hc : s.eng.cur = some c) (hr : s.resetting = none)
    (ht : nextTurn s = .engine) : ∃ (m : State) (u : Uop) (rest : List Uop) (b : Bool), step s = .next m ∧
      s.eng.uq = u :: rest ∧ (rest = [] → Completes s c 1 [uopEvent b u] m) ∧
      (rest ≠ [] → m.eng.cur = some c ∧ m.resetting = none ∧ m.eng.uq = rest ∧
        m.eng.hist = s.eng.hist ++ [uopEvent b u]) := by
  obtain ⟨u, rest, hq⟩ := List.exists_cons_of_ne_nil (hinv.running c hc hr).uq_ne_nil
  obtain ⟨m, b, junk, hstep, hout, hmr, he⟩ := step_uop_next ht hc hr hq
  refine ⟨m, u, rest, b, hstep, hq, fun hrest => ?_, fun hrest => ?_⟩
  · rw [if_pos hrest] at he
    have hcur : m.eng.cur = none := by simp [he]
    obtain ⟨hdrv, hphase⟩ := activeClockLow.2 _ _ _ hinv hc hr ht hstep hcur
    exact {
      run := runSteps_succ 0 hstep
      inv := stepKeepsInvariant _ _ hinv hstep
      cur := hcur
      hist := by simp [he]
      ran := by simp [hq, hrest]
      drv := hdrv
      phase := hphase
      agenda := by rw [hout.agenda, List.drop_one]; rfl
      cfg := hout.cfg }
  · rw [if_neg hrest] at he
    simp [he, hc, hmr]

/-- The action is no reset and no access that stops the machine (20_memory.md R52). -/
def Machine.Turn.Admitted (p : Params) (a : Turn) : Prop :=
  (∀ l, a ≠ .reset l) ∧ (∀ x n, a = .hostRead x n → ∃ r, locate p x n = .reg r) ∧
    ∀ x n v, a = .hostWrite x n v → ∃ r, locate p x n = .reg r

/-- A line of the host's program reaches a next state: its access is a register's (30_encoding.md R88). -/
theorem step_host_next {s : State} {rest : List Turn} (h : s.agenda = .host :: rest) : ∃ t, step s = .next t := by
  cases hp : s.program with
  | nil => exact ⟨dropTurn s, by simp only [step, nextTurn_cons h, takeTurn, hostTurn, dropTurn_program, hp]⟩
  | cons l lines =>
    obtain ⟨r, ha, hr⟩ | ⟨r, v, ha, hr⟩ := locate_access l s.cfg
    · exact ⟨_, step_host_read h hp ha hr⟩
    · obtain ⟨t, ht⟩ := writeReg_next r v { s with agenda := rest }
      exact ⟨_, by rw [step_host_write h hp ha hr, ht]; rfl⟩

/-- An admitted action of another agent than the engine reaches a next state. -/
theorem step_admitted_next {s : State} {a : Turn} {rest : List Turn} (h : s.agenda = a :: rest)
    (ha : a.Admitted s.cfg) (hne : a ≠ .engine) : ∃ t, step s = .next t := by
  obtain ⟨hreset, hread, hwrite⟩ := ha
  cases a with
  | engine => exact absurd rfl hne
  | host => exact step_host_next h
  | hostRead x n =>
    obtain ⟨r, hl⟩ := hread x n rfl
    exact step_of_locate_reg (v := 0#32) (.inl h) hl
  | hostWrite x n v =>
    obtain ⟨r, hl⟩ := hwrite x n v rfl
    exact step_of_locate_reg (.inr h) hl
  | remote l x => exact ⟨_, step_remote (nextTurn_cons h)⟩
  | reset l => exact absurd rfl (hreset l)

/-- The engine `e'` is `e` but for the fault flags and events that record no micro-op. -/
def Machine.Engine.Beside (e e' : Engine) : Prop :=
  ∃ (i q o : Bool) (more : List Event), more.filterMap Event.uop = [] ∧
    e' = { e with ill := i, seq := q, ovr := o, hist := e.hist ++ more }

theorem Machine.Engine.beside_self (e : Engine) : e.Beside e :=
  ⟨e.ill, e.seq, e.ovr, [], rfl, by simp⟩

theorem Machine.Engine.beside_raise (e : Engine) (w : Word) (k : RejectKind) : e.Beside (e.raise w k) := by
  cases k <;> exact ⟨_, _, _, [.reject w _], rfl, rfl⟩

theorem Machine.Engine.beside_writeStatus (e : Engine) (v : Word) : e.Beside (e.writeStatus v) :=
  let e' := e.writeStatus v
  ⟨e'.ill, e'.seq, e'.ovr, [], rfl, by simp [e', Engine.writeStatus]⟩

/-- What another agent than the engine does leaves a command in execution as it is (20_memory.md R63, 60_exceptions.md R172). -/
theorem step_beside_command {s t : State} (hc : s.eng.cur ≠ none) (ht : nextTurn s ≠ .engine)
    (hreset : ∀ l, nextTurn s ≠ .reset l) (h : step s = .next t) :
    s.eng.Beside t.eng ∧ t.resetting = s.resetting := by
  cases step_case h with
  | idle hn => exact absurd hn ht
  | uop _ _ _ _ hn => exact absurd hn ht
  | resetEnd _ hn => exact absurd hn ht
  | programOver => exact ⟨s.eng.beside_self, rfl⟩
  | read _ _ _ _ _ _ hm => exact ⟨hm.eng_eq ▸ s.eng.beside_self, hm.resetting_eq⟩
  | command w c _ _ _ hm =>
    refine ⟨?_, hm.resetting_eq⟩
    rw [hm.eng_eq, Engine.submit_busy hc]
    exact s.eng.beside_raise ..
  | illegal w _ _ _ _ hm =>
    refine ⟨?_, hm.resetting_eq⟩
    rw [hm.eng_eq, Engine.submitIllegal_busy hc]
    exact s.eng.beside_raise ..
  | status v _ _ hm => exact ⟨hm.eng_eq ▸ s.eng.beside_writeStatus v, hm.resetting_eq⟩
  | ignored _ _ _ _ _ _ hm => exact ⟨hm.eng_eq ▸ s.eng.beside_self, hm.resetting_eq⟩
  | remote => exact ⟨s.eng.beside_self, rfl⟩
  | reset l hn => exact absurd hn (hreset l)

/-! ## To the end of the command -/

/-- One step, of whichever agent, completes the command or brings its completion nearer. -/
theorem step_toward_completion {s : State} {c : Cmd} (hinv : Inv s) (hc : s.eng.cur = some c) (hr : s.resetting = none)
    (hagenda : ∀ a ∈ s.agenda, a.Admitted s.cfg) : ∃ (m : State) (evs : List Event), step s = .next m ∧
      (Completes s c 1 evs m ∨ m.eng.cur = some c ∧ m.resetting = none ∧ m.eng.hist = s.eng.hist ++ evs ∧
        s.eng.uq = evs.filterMap Event.uop ++ m.eng.uq ∧
        m.agenda.length + m.eng.uq.length < s.agenda.length + s.eng.uq.length) := by
  by_cases ht : nextTurn s = .engine
  · obtain ⟨m, u, rest, b, hstep, hq, hlast, hmore⟩ := step_in_command hinv hc hr ht
    refine ⟨m, [uopEvent b u], hstep, ?_⟩
    by_cases hnil : rest = []
    · exact .inl (hlast hnil)
    · obtain ⟨hmc, hmr, hmq, hhist⟩ := hmore hnil
      refine .inr ⟨hmc, hmr, hhist, by simp [hq, hmq], ?_⟩
      rw [(step_case hstep).outside.agenda_eq, List.length_tail, hmq, hq, List.length_cons]
      omega
  · obtain ⟨a, rest, ha⟩ : ∃ a rest, s.agenda = a :: rest :=
      List.exists_cons_of_ne_nil fun hnil => ht (nextTurn_nil hnil)
    have hadm : a.Admitted s.cfg := hagenda a (by simp [ha])
    rw [← nextTurn_cons ha] at hadm
    obtain ⟨m, hstep⟩ := step_admitted_next ha (nextTurn_cons ha ▸ hadm) (nextTurn_cons ha ▸ ht)
    obtain ⟨⟨_, _, _, evs, hnone, he⟩, hmr⟩ := step_beside_command (by simp [hc]) ht hadm.1 hstep
    have hmq : m.eng.uq = s.eng.uq := by rw [he]
    refine ⟨m, evs, hstep, .inr ⟨by rw [he]; exact hc, hmr.trans hr, by rw [he], by rw [hnone, hmq]; rfl, ?_⟩⟩
    rw [(step_case hstep).outside.agenda_eq, hmq, ha, List.tail_cons, List.length_cons]
    omega

/-- The command completes within as many steps as there are actions on the agenda and micro-ops left. -/
theorem exists_completes (n : Nat) {s : State} {c : Cmd} (hinv : Inv s) (hc : s.eng.cur = some c)
    (hr : s.resetting = none) (hagenda : ∀ a ∈ s.agenda, a.Admitted s.cfg)
    (hn : s.agenda.length + s.eng.uq.length ≤ n) : ∃ k evs t, k ≤ n ∧ Completes s c k evs t := by
  induction n generalizing s with
  | zero =>
    have hq : s.eng.uq = [] := List.length_eq_zero_iff.1 (by omega)
    exact absurd hq (hinv.running c hc hr).uq_ne_nil
  | succ n ih =>
    obtain ⟨m, evs, hstep, hdone | ⟨hmc, hmr, hhist, huq, hless⟩⟩ := step_toward_completion hinv hc hr hagenda
    · exact ⟨1, evs, m, by omega, hdone⟩
    · have hmagenda : ∀ a ∈ m.agenda, a.Admitted m.cfg := by
        rw [(step_case hstep).outside.agenda_eq, (step_case hstep).outside.cfg_eq]
        exact fun a ha => hagenda a (List.mem_of_mem_tail ha)
      obtain ⟨k, evs', t, hk, ht⟩ := ih (stepKeepsInvariant _ _ hinv hstep) hmc hmr hmagenda (by omega)
      exact ⟨k + 1, _, t, by omega, ht.of_step hstep hhist huq⟩

/-- Settles O43, from `exists_completes`. -/
theorem commandRunsToCompletion : Obligations.CommandRunsToCompletion := by
  intro s c hinv hc hr hagenda
  obtain ⟨k, evs, t, hk, h⟩ := exists_completes _ hinv hc hr hagenda (Nat.le_refl _)
  exact ⟨k, t, evs, hk, h.run, h.cur, h.hist, h.ran, h.drv, h.phase⟩

/-- The next `n` turns are the engine's. -/
def EngineFor (n : Nat) (agenda : List Turn) : Prop := ∀ a ∈ agenda.take n, a = .engine

theorem engineFor_nil (n : Nat) : EngineFor n [] := by simp [EngineFor]

theorem engineFor_replicate (n : Nat) (more : List Turn) : EngineFor n (List.replicate n .engine ++ more) := by
  simp [EngineFor]

/-- The first of them is the engine's, and so are the others. -/
theorem EngineFor.succ {n : Nat} {s : State} (h : EngineFor (n + 1) s.agenda) :
    nextTurn s = .engine ∧ EngineFor n s.agenda.tail := by
  cases ha : s.agenda with
  | nil => exact ⟨nextTurn_nil ha, engineFor_nil n⟩
  | cons a more =>
    rw [ha] at h
    exact ⟨(nextTurn_cons ha).trans (h a (by simp)), fun b hb => h b (List.mem_cons_of_mem _ hb)⟩

/-- The first `m` of them, and the others. -/
theorem EngineFor.add {m n : Nat} {agenda : List Turn} (h : EngineFor (m + n) agenda) :
    EngineFor m agenda ∧ EngineFor n (agenda.drop m) := by
  rw [EngineFor, List.take_add] at h
  exact List.forall_mem_append.1 h

/-- With the engine's turns alone next, the command completes in exactly as many steps as it has micro-ops left, and every
event on the way is a micro-op's. -/
theorem exists_completes_engine {s : State} {c : Cmd} (hinv : Inv s) (hc : s.eng.cur = some c) (hr : s.resetting = none)
    (hagenda : EngineFor s.eng.uq.length s.agenda) :
    ∃ evs t, Completes s c s.eng.uq.length evs t ∧ ∀ ev ∈ evs, ev.uop ≠ none := by
  induction hn : s.eng.uq.length generalizing s with
  | zero => exact absurd (List.length_eq_zero_iff.1 hn) (hinv.running c hc hr).uq_ne_nil
  | succ n ih =>
    rw [hn] at hagenda
    obtain ⟨ht, htail⟩ := hagenda.succ
    obtain ⟨m, u, rest, b, hstep, hq, hlast, hmore⟩ := step_in_command hinv hc hr ht
    have hlen : rest.length = n := by simpa [hq] using hn
    by_cases hnil : rest = []
    · subst hnil
      obtain rfl : 0 = n := hlen
      exact ⟨_, m, hlast rfl, by simp⟩
    · obtain ⟨hmc, hmr, hmq, hhist⟩ := hmore hnil
      have hmn : m.eng.uq.length = n := by rw [hmq, hlen]
      have hmagenda : EngineFor m.eng.uq.length m.agenda := by
        rwa [(step_case hstep).outside.agenda_eq, hmn]
      obtain ⟨evs, t, ht, hevs⟩ := ih (stepKeepsInvariant _ _ hinv hstep) hmc hmr hmagenda hmn
      exact ⟨_, t, ht.of_step hstep hhist (by simp [hq, hmq]), by simpa using hevs⟩

end Sys2Proof

/-! PROOF. The command grammar (O47). `AcceptedFrom` reads the commands of a host's script as an automaton on `phase` does; it
accepts the grammar's words (`grammar_iff`), and the run of the script rejects no command exactly where it accepts. -/

namespace Sys2Proof

open Machine

/-! ## The grammar as an automaton -/

/-- Each command is legal in the phase that the ones before it leave (41_bus_transport.md R120, R165). -/
def AcceptedFrom : Phase → List Cmd → Prop
  | _, [] => True
  | p, c :: cs => p = c.entryPhase ∧ AcceptedFrom c.exitPhase cs

/-- The commands between START and STOP keep the phase Active. -/
theorem acceptedFrom_inner_append {body cs : List Cmd} (h : ∀ c ∈ body, c.inner) :
    AcceptedFrom .active (body ++ cs) ↔ AcceptedFrom .active cs := by
  induction body with
  | nil => rfl
  | cons c body ih =>
    obtain ⟨hc, hbody⟩ := List.forall_mem_cons.1 h
    cases c with
    | start | stop => cases hc
    | sendByte _ | rstart | readWord => exact (and_iff_right rfl).trans (ih hbody)

theorem acceptedFrom_of_grammar {cs : List Cmd} (h : Grammar cs) : AcceptedFrom .idle cs := by
  induction h with
  | empty => trivial
  | unfinished body hbody =>
    have hall : AcceptedFrom .active (body ++ []) := (acceptedFrom_inner_append hbody).2 trivial
    exact ⟨rfl, List.append_nil body ▸ hall⟩
  | transaction body rest hbody _ ih => exact ⟨rfl, (acceptedFrom_inner_append hbody).2 ⟨rfl, ih⟩⟩

/-- One more command in the first transaction. -/
theorem Grammar.cons_inner {cs : List Cmd} {c : Cmd} (hc : c.inner) (h : Grammar (.start :: cs)) :
    Grammar (.start :: c :: cs) := by
  cases h with
  | unfinished _ hbody => exact .unfinished (c :: cs) (List.forall_mem_cons.2 ⟨hc, hbody⟩)
  | transaction body rest hbody hrest =>
    exact .transaction (c :: body) rest (List.forall_mem_cons.2 ⟨hc, hbody⟩) hrest

/-- From Idle the automaton accepts words of the grammar, from Active what completes a transaction that START began. -/
theorem grammar_of_acceptedFrom (cs : List Cmd) :
    (AcceptedFrom .idle cs → Grammar cs) ∧ (AcceptedFrom .active cs → Grammar (.start :: cs)) := by
  induction cs with
  | nil => exact ⟨fun _ => .empty, fun _ => .unfinished [] (by simp)⟩
  | cons c cs ih =>
    obtain ⟨ihIdle, ihActive⟩ := ih
    constructor <;> rintro ⟨hp, h⟩
    · cases c with
      | start => exact ihActive h
      | sendByte _ | rstart | readWord | stop => cases hp
    · cases c with
      | start => cases hp
      | sendByte _ | rstart | readWord => exact (ihActive h).cons_inner trivial
      | stop => exact .transaction [] cs (by simp) (ihIdle h)

theorem grammar_iff (cs : List Cmd) : Grammar cs ↔ AcceptedFrom .idle cs :=
  ⟨acceptedFrom_of_grammar, (grammar_of_acceptedFrom cs).1⟩

/-! ## The run of a script -/

/-- The engine's turns do nothing while no command is in execution (60_exceptions.md R187). -/
theorem runSteps_idle (n : Nat) {s : State} {more : List Turn} (hc : s.eng.cur = none)
    (ha : s.agenda = List.replicate n .engine ++ more) : runSteps n s = .next { s with agenda := more } := by
  induction n generalizing s with
  | zero =>
    rw [List.replicate_zero, List.nil_append] at ha
    rw [← ha]
    rfl
  | succ n ih =>
    rw [List.replicate_succ, List.cons_append] at ha
    have hstep : step s = .next { s with agenda := List.replicate n .engine ++ more } := by
      simp only [step, nextTurn_cons ha, dropTurn_cons ha, takeTurn, engineTurn, hc]
    exact (runSteps_succ n hstep).trans (ih (s := { s with agenda := List.replicate n .engine ++ more }) hc rfl)

/-- A host's write of one command and the engine's turns after it: `evs` are the events, and `phase` is left as `p`. -/
structure CommandIssued (s : State) (k : Nat) (more : List Turn) (evs : List Event) (p : Phase) (t : State) : Prop where
  run : runSteps k s = .next t
  inv : Inv t
  cur : t.eng.cur = none
  cfg : t.cfg = s.cfg
  agenda : t.agenda = more
  hist : t.eng.hist = s.eng.hist ++ evs
  phase : t.eng.phase = p

section Script

variable {s : State} {c : Cmd} {more : List Turn} (hinv : Inv s) (hc : s.eng.cur = none)
  (ha : s.agenda = .hostWrite s.cfg.engineBase 4 c.word :: (List.replicate (expand s.cfg c).length .engine ++ more))

include hinv hc ha

/-- In its phase the command is accepted, and completes. -/
theorem exists_issued_accepted (hp : s.eng.phase = c.entryPhase) :
    ∃ t evs, CommandIssued s ((expand s.cfg c).length + 1) more evs c.exitPhase t ∧ NoReject evs := by
  have hstep := step_accept hc hp ha
  generalize hm : ({ s with
    agenda := List.replicate (expand s.cfg c).length .engine ++ more, eng := s.eng.accept s.cfg c } : State) = m at hstep
  have hmq : m.eng.uq = expand s.cfg c := by rw [← hm]; exact Engine.accept_uq ..
  have hmr : m.resetting = none := by rw [← hm]; exact hinv.resetting_none hc
  have hma : m.agenda = List.replicate m.eng.uq.length .engine ++ more := by rw [hmq, ← hm]
  obtain ⟨evs, t, ht, hevs⟩ := exists_completes_engine (stepKeepsInvariant _ _ hinv hstep)
    (by rw [← hm]; exact Engine.accept_cur ..) hmr
    (by rw [hma]; exact engineFor_replicate _ _)
  refine ⟨t, [.accept c] ++ evs ++ [.done c], ?_, fun w k hmem => ?_⟩
  · exact {
      run := by rw [runSteps_succ _ hstep, ← hmq]; exact ht.run
      inv := ht.inv
      cur := ht.cur
      cfg := by rw [ht.cfg, ← hm]
      agenda := by rw [ht.agenda, hma]; simp
      hist := by rw [ht.hist, ← hm]; simp
      phase := ht.phase }
  · have hmem' : Event.reject w k ∈ evs := by simpa using hmem
    exact hevs _ hmem' rfl

/-- Out of its phase the command is rejected with SEQ, and the engine's turns do nothing. -/
theorem exists_issued_rejected (hp : s.eng.phase ≠ c.entryPhase) :
    ∃ t, CommandIssued s ((expand s.cfg c).length + 1) more [.reject c.word .seq] s.eng.phase t := by
  have hstep := step_reject_seq hc hp ha
  have hrun := runSteps_idle (expand s.cfg c).length (more := more) (s := { s with
    agenda := List.replicate (expand s.cfg c).length .engine ++ more, eng := s.eng.raise c.word .seq })
    (by simpa using hc) rfl
  have hall := (runSteps_succ _ hstep).trans hrun
  exact ⟨_, hall, runSteps_keeps stepKeepsInvariant hinv hall, by simpa using hc, rfl, rfl, by simp, by simp⟩

end Script

/-- The run of a script: none of its commands is rejected exactly when each is legal in the phase the ones before it leave, and
only SEQ can reject one. -/
theorem exists_run_script (cs : List Cmd) {s : State} (hinv : Inv s) (hc : s.eng.cur = none)
    (ha : s.agenda = hostScript s.cfg cs) : ∃ (t : State) (evs : List Event), runSteps s.agenda.length s = .next t ∧
      t.eng.cur = none ∧ t.eng.hist = s.eng.hist ++ evs ∧ (NoReject evs ↔ AcceptedFrom s.eng.phase cs) ∧
      ∀ w k, Event.reject w k ∈ evs → k = .seq := by
  induction cs generalizing s with
  | nil =>
    rw [ha]
    exact ⟨s, [], rfl, hc, by simp, iff_of_true (by simp [NoReject]) trivial, by simp⟩
  | cons c cs ih =>
    have hlen : s.agenda.length = (expand s.cfg c).length + 1 + (hostScript s.cfg cs).length := by
      simp [ha, hostScript]
      omega
    have ha' : s.agenda = .hostWrite s.cfg.engineBase 4 c.word ::
        (List.replicate (expand s.cfg c).length .engine ++ hostScript s.cfg cs) := by
      simp [ha, hostScript]
    by_cases hp : s.eng.phase = c.entryPhase
    · obtain ⟨m, evs, hm, hno⟩ := exists_issued_accepted hinv hc ha' hp
      obtain ⟨t, evs', hrun, hcur, hhist, hiff, hseq⟩ := ih hm.inv hm.cur (by rw [hm.agenda, hm.cfg])
      refine ⟨t, evs ++ evs', ?_, hcur, by rw [hhist, hm.hist, List.append_assoc], ?_, fun w k hmem => ?_⟩
      · rw [hlen, ← hm.agenda]
        exact runSteps_add hm.run hrun
      · rw [AcceptedFrom, and_iff_right hp, ← hm.phase, ← hiff]
        simp only [NoReject, List.mem_append, not_or, forall_and] at hno ⊢
        exact and_iff_right hno
      · exact hseq w k ((List.mem_append.1 hmem).resolve_left (hno w k))
    · obtain ⟨m, hm⟩ := exists_issued_rejected hinv hc ha' hp
      obtain ⟨t, evs', hrun, hcur, hhist, -, hseq⟩ := ih hm.inv hm.cur (by rw [hm.agenda, hm.cfg])
      refine ⟨t, .reject c.word .seq :: evs', ?_, hcur, by rw [hhist, hm.hist]; simp,
        iff_of_false ?_ fun h => hp h.1, ?_⟩
      · rw [hlen, ← hm.agenda]
        exact runSteps_add hm.run hrun
      · exact fun hno => hno _ _ List.mem_cons_self
      · intro w k hmem
        obtain heq | hmem := List.mem_cons.1 hmem
        · cases heq; rfl
        · exact hseq w k hmem

/-- Settles O47: the run of the script, from Idle, and the automaton of the grammar. -/
theorem commandGrammar : Obligations.CommandGrammar := by
  intro s cs hinv hc hp ha
  obtain ⟨t, evs, hrun, hcur, hhist, hiff, hseq⟩ := exists_run_script cs hinv hc ha
  rw [hp, ← grammar_iff] at hiff
  exact ⟨t, evs, hrun, hcur, hhist, hiff, hseq⟩

end Sys2Proof

/-! PROOF. The lines inside a command (O49, O50). Under the invariant the drive is what the micro-ops so far make of the lines at
entry (10_state.md R28), so it is read off the expansion, cut at `upc`. -/

namespace Sys2Proof

open Machine

/-! ## SEND_BYTE's cells -/

/-- Cell `k` of a byte is six micro-ops from the `6 k`-th on (41_bus_transport.md R123). -/
theorem drop_txbits (p : Params) (us : List Uop) {bits : List Bool} {k : Nat} {x : Bool} (h : bits[k]? = some x) :
    ∃ more, (bits.flatMap (txbit p) ++ us).drop (6 * k) = txbit p x ++ more := by
  induction bits generalizing k with
  | nil => simp at h
  | cons b bits ih =>
    rw [List.flatMap_cons, List.append_assoc]
    cases k with
    | zero =>
      obtain rfl : b = x := by simpa using h
      exact ⟨_, rfl⟩
    | succ k =>
      obtain ⟨more, hmore⟩ := ih (k := k) (by simpa using h)
      refine ⟨more, ?_⟩
      rw [← hmore, Nat.mul_succ, Nat.add_comm, ← List.drop_drop, List.drop_left' (length_txbit p b)]

/-- A byte's bits in wire order: bit `7 - k` is the `k`-th (20_memory.md R56). -/
theorem byteBits_getElem? (v : Byte) {k : Nat} (hk : k < 8) : (byteBits v)[k]? = some (v.getLsbD (7 - k)) := by
  interval_cases k <;> rfl

/-- SEND_BYTE at the clock-high WAIT of cell `k`. -/
theorem Running.txbit_high {p : Params} {v : Byte} {e : Engine} {k : Nat} (h : Running p (.sendByte v) e) (hk : k < 8)
    (hupc : e.upc = 6 * k + 3) : e.uq.head? = some (.wait p.nBitHigh) ∧
      e.drv = ⟨.rel, if v.getLsbD (7 - k) = false then .low else .rel⟩ := by
  obtain ⟨more, hcell⟩ := drop_txbits p (ackPhase p) (byteBits_getElem? v hk)
  change (expand p (.sendByte v)).drop (6 * k) = _ at hcell
  obtain ⟨d, -, hdrv⟩ := h.lines
  constructor
  · rw [h.queue, hupc, ← List.drop_drop, hcell]
    rfl
  · rw [hdrv, hupc, List.take_add, hcell, replay_append]
    cases v.getLsbD (7 - k) <;> rfl

/-- With the remote device silent a line's level is the engine's drive (40_line_driver.md R105). -/
theorem RemoteSilent.level {s : State} (h : RemoteSilent s) (l : Line) : s.level l = (s.eng.drv.get l == .rel) := by
  cases l <;> simp [State.level, show s.pull = ⟨false, false⟩ from h]

/-- Settles O49: the cell drives its bit and releases SCL just before its clock-high WAIT (`Running.txbit_high`). -/
theorem sendByteBitsOnWire : Obligations.SendByteBitsOnWire := by
  intro s v k hinv hc hr hk hupc
  obtain ⟨hhead, hdrv⟩ := (hinv.running _ hc hr).txbit_high hk hupc
  refine ⟨hhead, congrArg Pads.scl hdrv, congrArg Pads.sda hdrv, fun hsilent => ?_⟩
  rw [hsilent.level, hsilent.level, hdrv]
  cases v.getLsbD (7 - k) <;> decide

/-! ## READ_WORD's acknowledges -/

/-- Micro-ops that never drive SDA low keep it released. -/
theorem replay_sda_rel {d : Pads} {us : List Uop} (hd : d.sda = .rel) (hus : .low .sda ∉ us) :
    (replay d us).sda = .rel := by
  induction us generalizing d with
  | nil => exact hd
  | cons u us ih =>
    rw [List.mem_cons, not_or] at hus
    refine ih ?_ hus.2
    rcases u with (_ | _) | (_ | _) | (_ | _) | n
    case low.sda => exact absurd rfl hus.1
    case rel.sda | smp.sda => rfl
    all_goals exact hd

/-- Micro-ops that never release SDA keep it low. -/
theorem replay_sda_low {d : Pads} {us : List Uop} (hd : d.sda = .low) (hrel : .rel .sda ∉ us) (hsmp : .smp .sda ∉ us) :
    (replay d us).sda = .low := by
  induction us generalizing d with
  | nil => exact hd
  | cons u us ih =>
    rw [List.mem_cons, not_or] at hrel hsmp
    refine ih ?_ hrel.2 hsmp.2
    rcases u with (_ | _) | (_ | _) | (_ | _) | n
    case rel.sda => exact absurd rfl hrel.1
    case smp.sda => exact absurd rfl hsmp.1
    case low.sda => rfl
    all_goals exact hd

/-- The lines some micro-ops after `u`. -/
theorem replay_take_after (d : Pads) (pre post : List Uop) (u : Uop) (j : Nat) :
    replay d ((pre ++ u :: post).take (pre.length + 1 + j)) = replay ((replay d pre).after u) (post.take j) := by
  rw [Nat.add_assoc, List.take_length_add_append, Nat.add_comm, List.take_succ_cons, replay_append]
  rfl

theorem low_sda_notMem_rxbyte (p : Params) : Uop.low .sda ∉ rxbyte p := by
  simp [rxbyte, rxbit]

/-- What READ_WORD does after the acknowledge's LOW SDA up to the release of SDA (41_bus_transport.md R150). -/
def ackTail (p : Params) : List Uop := (.wait p.nBitSetup :: pulse p) ++ [.wait p.nRdAckSettle]

/-- What READ_WORD does after the release of SDA before its high byte (41_bus_transport.md R150). -/
def highByte (p : Params) : List Uop := rxbyte p ++ txbit p true ++ [.wait p.nRdNackSettle]

/-- READ_WORD, cut at the places where it changes its drive of SDA (41_bus_transport.md R152). -/
theorem expandReadWord_split (p : Params) : expandReadWord p =
    .rel .sda :: (rxbyte p ++ .low .sda :: (ackTail p ++ .rel .sda :: highByte p)) := by
  simp [expandReadWord, ackTail, highByte, txbit, dataUop]

section ReadWordLines

variable (p : Params) (d : Pads)

/-- SDA is released through the low byte's receive cells. -/
theorem readWord_sda_low_byte {n : Nat} (h : 1 ≤ n) (h' : n ≤ 57) :
    (replay d ((expandReadWord p).take n)).sda = .rel := by
  obtain ⟨j, rfl⟩ := Nat.exists_eq_add_of_le h
  rw [expandReadWord_split]
  refine (congrArg Pads.sda (replay_take_after d [] _ _ j)).trans (replay_sda_rel rfl fun hmem => ?_)
  rw [List.take_append_of_le_length (by rw [length_rxbyte]; omega)] at hmem
  exact low_sda_notMem_rxbyte p (List.mem_of_mem_take hmem)

/-- SDA is low from the acknowledge's LOW SDA through its settle. -/
theorem readWord_sda_ack {n : Nat} (h : 58 ≤ n) (h' : n ≤ 64) :
    (replay d ((expandReadWord p).take n)).sda = .low := by
  obtain ⟨j, rfl⟩ := Nat.exists_eq_add_of_le h
  have htail : (ackTail p ++ .rel .sda :: highByte p).take j = (ackTail p).take j :=
    List.take_append_of_le_length (show j ≤ 6 by omega)
  rw [expandReadWord_split]
  refine (congrArg Pads.sda (replay_take_after d (.rel .sda :: rxbyte p) _ _ j)).trans
    (replay_sda_low rfl (fun hmem => ?_) fun hmem => ?_) <;>
  · rw [htail] at hmem
    simpa [ackTail, pulse] using List.mem_of_mem_take hmem

/-- SDA is released from before the high byte to the end. -/
theorem readWord_sda_high_byte {n : Nat} (h : 65 ≤ n) : (replay d ((expandReadWord p).take n)).sda = .rel := by
  obtain ⟨j, rfl⟩ := Nat.exists_eq_add_of_le h
  have hsplit : expandReadWord p =
      (.rel .sda :: (rxbyte p ++ .low .sda :: ackTail p)) ++ .rel .sda :: highByte p := by
    simp [expandReadWord_split]
  rw [hsplit]
  refine (congrArg Pads.sda (replay_take_after d (.rel .sda :: (rxbyte p ++ .low .sda :: ackTail p)) _ _ j)).trans
    (replay_sda_rel rfl fun hmem => ?_)
  simpa [highByte, rxbyte, rxbit, txbit, dataUop, pulse] using List.mem_of_mem_take hmem

end ReadWordLines

/-- Settles O50, from the three cuts of READ_WORD's expansion. -/
theorem readWordAcknowledges : Obligations.ReadWordAcknowledges := by
  intro s hinv hc hr
  obtain ⟨d, -, hdrv⟩ := (hinv.running _ hc hr).lines
  rw [hdrv]
  exact ⟨readWord_sda_low_byte s.cfg d, readWord_sda_ack s.cfg d, readWord_sda_high_byte s.cfg d⟩

end Sys2Proof

/-! PROOF. The wire conditions (O48). With the remote device silent the levels are the drive, and an engine's step moves the drive
along the command's expansion. SEND_BYTE and READ_WORD move SDA only while SCL is low (`calm`); START, RSTART and STOP are
computed. -/

namespace Sys2Proof

open Machine

/-! ## Levels and drive -/

/-- SDA is taken low with SCL released. -/
def StartEdge (d d' : Pads) : Prop := d = ⟨.rel, .rel⟩ ∧ d' = ⟨.rel, .low⟩

/-- SDA is released with SCL released. -/
def StopEdge (d d' : Pads) : Prop := d = ⟨.rel, .low⟩ ∧ d' = ⟨.rel, .rel⟩

section Silent

variable {s t : State} (hs : RemoteSilent s) (ht : RemoteSilent t)

include hs ht

theorem startCondition_iff : startCondition s t ↔ StartEdge s.eng.drv t.eng.drv := by
  rw [startCondition, hs.level, hs.level, ht.level, ht.level]
  rcases s.eng.drv with ⟨_ | _, _ | _⟩ <;> rcases t.eng.drv with ⟨_ | _, _ | _⟩ <;> simp [StartEdge]

theorem stopCondition_iff : stopCondition s t ↔ StopEdge s.eng.drv t.eng.drv := by
  rw [stopCondition, hs.level, hs.level, ht.level, ht.level]
  rcases s.eng.drv with ⟨_ | _, _ | _⟩ <;> rcases t.eng.drv with ⟨_ | _, _ | _⟩ <;> simp [StopEdge]

/-- A change of SDA alone is a data change, a start condition or a stop condition (40_line_driver.md R108). -/
theorem wire_of_sda_changed (hsda : t.eng.drv.sda ≠ s.eng.drv.sda) (hscl : t.eng.drv.scl = s.eng.drv.scl) :
    dataChange s t ∨ startCondition s t ∨ stopCondition s t := by
  rw [startCondition_iff hs ht, stopCondition_iff hs ht, dataChange, hs.level, hs.level, ht.level, ht.level]
  rcases hd : s.eng.drv with ⟨_ | _, _ | _⟩ <;> rcases hd' : t.eng.drv with ⟨_ | _, _ | _⟩ <;>
    simp_all [StartEdge, StopEdge]

end Silent

/-- A micro-op acts on one line. -/
theorem after_scl_of_sda_changed {d : Pads} {u : Uop} (h : (d.after u).sda ≠ d.sda) : (d.after u).scl = d.scl := by
  rcases u with (_ | _) | (_ | _) | (_ | _) | n
  case rel.scl | low.scl | smp.scl => exact absurd rfl h
  all_goals rfl

/-! ## Commands that move SDA only while SCL is low -/

/-- From `d` on, SDA moves only while SCL is low. -/
def calm : Pads → List Uop → Bool
  | _, [] => true
  | d, u :: us => (d.scl == .low || (d.after u).sda == d.sda) && calm (d.after u) us

theorem calm_append (d : Pads) (us vs : List Uop) : calm d (us ++ vs) = (calm d us && calm (replay d us) vs) := by
  induction us generalizing d with
  | nil => rfl
  | cons u us ih =>
    rw [List.cons_append, calm, ih, calm, Bool.and_assoc]
    rfl

/-- At every place of calm micro-ops SCL is low or SDA does not move. -/
theorem calm_at {d : Pads} {us : List Uop} {i : Nat} {u : Uop} (h : calm d us = true) (hi : us[i]? = some u) :
    (replay d (us.take i)).scl = .low ∨ ((replay d (us.take i)).after u).sda = (replay d (us.take i)).sda := by
  obtain ⟨hlt, rfl⟩ := List.getElem?_eq_some_iff.1 hi
  rw [← List.take_append_drop i us, List.drop_eq_getElem_cons hlt, calm_append, calm] at h
  simp only [Bool.and_eq_true, Bool.or_eq_true, beq_iff_eq] at h
  exact h.2.1

/-- Transmit bit cells are calm, and leave SCL low. -/
theorem calm_txbits (p : Params) (bits : List Bool) {d : Pads} (hd : d.scl = .low) :
    calm d (bits.flatMap (txbit p)) = true ∧ (replay d (bits.flatMap (txbit p))).scl = .low := by
  induction bits generalizing d with
  | nil => exact ⟨rfl, hd⟩
  | cons b bits ih =>
    obtain ⟨scl, sda⟩ := d
    obtain rfl : scl = .low := hd
    have hcell : calm ⟨.low, sda⟩ (txbit p b) = true := by cases b <;> rfl
    rw [List.flatMap_cons, calm_append, replay_append, hcell, replay_txbit]
    exact ih rfl

theorem calm_sendByte (p : Params) (v : Byte) {d : Pads} (hd : d.scl = .low) : calm d (expandSendByte p v) = true := by
  obtain ⟨hcells, hscl⟩ := calm_txbits p (byteBits v) hd
  rw [expandSendByte, calm_append, hcells]
  generalize replay d ((byteBits v).flatMap (txbit p)) = d' at hscl
  obtain ⟨scl, sda⟩ := d'
  obtain rfl : scl = .low := hscl
  cases sda <;> rfl

theorem calm_readWord (p : Params) {d : Pads} (hd : d.scl = .low) : calm d (expandReadWord p) = true := by
  obtain ⟨scl, sda⟩ := d
  obtain rfl : scl = .low := hd
  cases sda <;> rfl

/-! ## The edges of each command -/

/-- Calm micro-ops make neither edge. -/
theorem no_edge_of_calm {d : Pads} {us : List Uop} {i : Nat} {u : Uop} (h : calm d us = true) (hi : us[i]? = some u) :
    ¬StartEdge (replay d (us.take i)) ((replay d (us.take i)).after u) ∧
      ¬StopEdge (replay d (us.take i)) ((replay d (us.take i)).after u) := by
  have hat := calm_at h hi
  constructor <;> rintro ⟨hd, hd'⟩ <;> rw [hd', hd] at hat <;> simp at hat

/-- Where a command makes a start condition and where a stop condition (41_bus_transport.md R131, R146, R161). -/
theorem edges_of_expand (p : Params) {c : Cmd} {d : Pads} {i : Nat} {u : Uop} (hd : c.entryLines d)
    (hi : (expand p c)[i]? = some u) :
    (StartEdge (replay d ((expand p c).take i)) ((replay d ((expand p c).take i)).after u) ↔
      (c = .start ∧ i = 3) ∨ (c = .rstart ∧ i = 4)) ∧
    (StopEdge (replay d ((expand p c).take i)) ((replay d ((expand p c).take i)).after u) ↔
      c = .stop ∧ i = 2 ∧ (replay d ((expand p c).take i)).sda = .low) := by
  obtain ⟨hlt, -⟩ := List.getElem?_eq_some_iff.1 hi
  cases c with
  | sendByte v =>
    obtain ⟨hstart, hstop⟩ := no_edge_of_calm (calm_sendByte p v hd) hi
    exact ⟨iff_of_false hstart (by simp), iff_of_false hstop (by simp)⟩
  | readWord =>
    obtain ⟨hstart, hstop⟩ := no_edge_of_calm (calm_readWord p hd) hi
    exact ⟨iff_of_false hstart (by simp), iff_of_false hstop (by simp)⟩
  | start =>
    obtain rfl : d = Pads.released := hd
    change i < 7 at hlt
    interval_cases i <;> cases hi <;> simp [expand, expandStart, replay, Pads.after, StartEdge, StopEdge, Pads.released]
  | rstart =>
    obtain ⟨scl, sda⟩ := d
    obtain rfl : scl = .low := hd
    change i < 8 at hlt
    interval_cases i <;> cases hi <;> simp [expand, expandRstart, replay, Pads.after, StartEdge, StopEdge]
  | stop =>
    obtain ⟨scl, sda⟩ := d
    obtain rfl : scl = .low := hd
    change i < 4 at hlt
    interval_cases i <;> cases hi <;> cases sda <;> simp [expand, expandStop, replay, Pads.after, StartEdge, StopEdge]

/-! ## The engine's step and the host's accesses -/

/-- The engine's step inside a command moves the drive by the micro-op at `upc`. -/
theorem step_drv_in_command {s t : State} {c : Cmd} (hinv : Inv s) (hc : s.eng.cur = some c) (hr : s.resetting = none)
    (ht : nextTurn s = .engine) (h : step s = .next t) :
    ∃ u, (expand s.cfg c)[s.eng.upc]? = some u ∧ t.eng.drv = s.eng.drv.after u ∧ t.pull = s.pull := by
  have hrun := hinv.running c hc hr
  obtain ⟨u, rest, hq⟩ := List.exists_cons_of_ne_nil hrun.uq_ne_nil
  obtain ⟨m, b, junk, hstep, hout, -, he⟩ := step_uop_next ht hc hr hq
  obtain rfl : t = m := by rw [hstep] at h; cases h; rfl
  refine ⟨u, ?_, ?_, hout.pull⟩
  · rw [← List.head?_drop, ← hrun.queue, hq, List.head?_cons]
  · rw [he]
    split <;> simp

theorem Machine.Engine.submit_drv (e : Engine) (p : Params) (c : Cmd) : (e.submit p c).drv = e.drv := by
  unfold Engine.submit
  repeat' split
  all_goals simp

theorem Machine.Engine.submitIllegal_drv (e : Engine) (w : Word) : (e.submitIllegal w).drv = e.drv := by
  unfold Engine.submitIllegal
  split <;> simp

/-- A host access leaves the drive alone. -/
theorem accessTurn_drv {a : Access} {s m : State} (h : accessTurn a s = .next m) : m.eng.drv = s.eng.drv := by
  cases a with
  | read addr bytes =>
    obtain ⟨r, rfl⟩ := accessTurn_read_next h
    rfl
  | write addr bytes v =>
    obtain ⟨r, -, hw⟩ := accessTurn_write_next h
    cases r with
    | cmd =>
      obtain ⟨c, -, rfl⟩ | ⟨x, -, rfl⟩ := writeCmd_cases hw
      · exact Engine.submit_drv ..
      · exact Engine.submitIllegal_drv ..
    | status | rxdata | reserved => cases hw; rfl

/-- A host access leaves the levels alone. -/
theorem level_of_access {s t : State} {a : Access} (ha : nextAccess s = some a) (h : step s = .next t) (l : Line) :
    t.level l = s.level l := by
  obtain ⟨m, hm, hafter⟩ := accessTurn_of_nextAccess ha h
  have hdrv : t.eng.drv = s.eng.drv := hafter.eng_eq ▸ accessTurn_drv (s := dropTurn s) hm
  have hpull : t.pull = s.pull := by
    by_contra hne
    obtain ⟨k, x, hk⟩ := (step_case h).outside.remote_of_pull hne
    simp [nextAccess, hk] at ha
  rw [State.level, State.level, hdrv, hpull]

/-- Settles O48: the edges of the expansion at `upc`; with no command in execution the engine's step does nothing. -/
theorem wireConditions : Obligations.WireConditions := by
  refine fun s t hinv hs h => ⟨fun ht hr => ?_, fun ⟨a, ha⟩ l => level_of_access ha h l⟩
  cases hc : s.eng.cur with
  | none =>
    obtain rfl : t = dropTurn s := by
      simp only [step, ht, takeTurn, engineTurn, dropTurn_eng, hc] at h
      cases h
      rfl
    have hs' : RemoteSilent (dropTurn s) := hs
    rw [startCondition_iff hs hs', stopCondition_iff hs hs']
    refine ⟨iff_of_false ?_ (by simp), iff_of_false ?_ (by simp), fun hne => absurd rfl hne⟩ <;>
    · rintro ⟨hd, hd'⟩
      rw [dropTurn_eng, hd] at hd'
      cases hd'
  | some c =>
    obtain ⟨u, hu, hdrv, hpull⟩ := step_drv_in_command hinv hc hr ht h
    have hs' : RemoteSilent t := hpull.trans hs
    obtain ⟨d, hd, hlines⟩ := (hinv.running c hc hr).lines
    obtain ⟨hstart, hstop⟩ := edges_of_expand s.cfg hd hu
    rw [← hlines, ← hdrv] at hstart hstop
    rw [← startCondition_iff hs hs'] at hstart
    rw [← stopCondition_iff hs hs'] at hstop
    simp only [Option.some.injEq]
    refine ⟨hstart, hstop, fun hne => ?_⟩
    have hscl : t.eng.drv.scl = s.eng.drv.scl := by
      rw [hdrv] at hne ⊢
      exact after_scl_of_sda_changed hne
    exact wire_of_sda_changed hs hs' hne hscl

end Sys2Proof

/-! PROOF. Whole commands with their samples (O44, O45). Micro-ops that take no sample move the drive and `hist` alone
(`runSteps_quiet`), a sample of released SDA reads the remote device's bit (`step_sample`), and the last micro-op completes the
command (`step_last`); the expansions of SEND_BYTE and READ_WORD are cut into these. -/

namespace Sys2Proof

open Machine

/-! ## Runs inside a command -/

/-- The command `c` is in execution, with the micro-ops `us` left. -/
structure InCommand (c : Cmd) (us : List Uop) (s : State) : Prop where
  cur : s.eng.cur = some c
  resetting : s.resetting = none
  timer : s.eng.tmr = 0
  queue : s.eng.uq = us

/-- The micro-op takes no sample. -/
def Machine.Uop.quiet : Uop → Bool
  | .rel _ => true
  | .low _ => true
  | .smp _ => false
  | .wait _ => true

/-- `s` after the quiet micro-ops `us`, with `rest` left behind them. -/
def Machine.State.afterUops (s : State) (us rest : List Uop) : State :=
  { s with
    agenda := s.agenda.drop us.length
    eng := { s.eng with
      uq := rest
      upc := s.eng.upc + us.length
      drv := replay s.eng.drv us
      hist := s.eng.hist ++ us.map (uopEvent false) } }

/-- `s` after a sample of SDA that the engine has released, with `rest` left behind it. -/
def Machine.State.afterSample (s : State) (rest : List Uop) : State :=
  { s with
    agenda := s.agenda.tail
    draws := s.draws + 1
    eng := { s.eng with
      uq := rest
      upc := s.eng.upc + 1
      hist := s.eng.hist ++ [Event.sample .sda (!s.pull.sda)] }.deliver s.eng.cur (!s.pull.sda) }

section Runs

variable {s : State} {c : Cmd} {u : Uop} {us rest : List Uop}

theorem InCommand.afterUops (h : InCommand c (us ++ rest) s) : InCommand c rest (s.afterUops us rest) :=
  ⟨h.cur, h.resetting, h.timer, rfl⟩

theorem InCommand.afterSample (h : InCommand c (.smp .sda :: rest) s) : InCommand c rest (s.afterSample rest) where
  cur := by simpa [State.afterSample] using h.cur
  resetting := h.resetting
  timer := by simpa [State.afterSample] using h.timer
  queue := by simp [State.afterSample]

/-- A quiet micro-op moves the drive and `hist` alone (40_line_driver.md R100, R101, R103). -/
theorem exec_quiet (h : InCommand c (u :: rest) s) (hu : u.quiet = true) :
    exec u.toInstr ((dropTurn s).popUop rest) = .next (s.afterUops [u] rest) := by
  cases u with
  | smp l => cases hu
  | rel l | low l => simp [State.afterUops, State.popUop, Uop.toInstr, replay, Pads.after, uopEvent, dropTurn,
      Engine.release, Engine.assertLow, Engine.setDrv, Engine.log]
  | wait n => simp [State.afterUops, State.popUop, Uop.toInstr, replay, Pads.after, uopEvent, dropTurn,
      Engine.delay, Engine.log, h.timer]

/-- A quiet micro-op that is not its command's last one. -/
theorem step_quiet (h : InCommand c (u :: rest) s) (hu : u.quiet = true) (hrest : rest ≠ [])
    (ht : nextTurn s = .engine) : step s = .next (s.afterUops [u] rest) := by
  rw [step_uop ht h.cur h.resetting h.queue (exec_quiet h hu), State.finish_more]
  exact hrest

/-- A quiet micro-op that is its command's last one, and the completion (41_bus_transport.md R121). -/
theorem step_last (h : InCommand c [u] s) (hu : u.quiet = true) (ht : nextTurn s = .engine) :
    step s = .next { s.afterUops [u] [] with
      eng := (s.afterUops [u] []).eng.complete (Config.freeRxacc s.draws) c
      draws := s.draws + 1 } := by
  rw [step_uop ht h.cur h.resetting h.queue (exec_quiet h hu), State.finish_last rfl]
  rfl

/-- Quiet micro-ops, not up to the end of the command. -/
theorem runSteps_quiet (h : InCommand c (us ++ rest) s) (hus : us.all Uop.quiet = true) (hrest : rest ≠ [])
    (ha : EngineFor us.length s.agenda) : runSteps us.length s = .next (s.afterUops us rest) := by
  induction us generalizing s with
  | nil =>
    obtain rfl : rest = s.eng.uq := h.queue.symm
    simp [State.afterUops, replay]
  | cons u us ih =>
    obtain ⟨hu, hus⟩ : u.quiet = true ∧ us.all Uop.quiet = true := by simpa using hus
    obtain ⟨ht, htail⟩ := ha.succ
    have hstep := step_quiet (rest := us ++ rest) h hu (by simp [hrest]) ht
    have hrun := ih (s := s.afterUops [u] (us ++ rest)) (InCommand.afterUops (us := [u]) h) hus
      (by simpa [State.afterUops] using htail)
    refine (runSteps_succ _ hstep).trans (hrun.trans ?_)
    simp [State.afterUops, replay, Nat.add_comm, Nat.add_left_comm]

/-- A sample of SDA that the engine has released reads the remote device's bit (40_line_driver.md R102). -/
theorem step_sample (h : InCommand c (.smp .sda :: rest) s) (hrest : rest ≠ []) (hsda : s.eng.drv.sda = .rel)
    (ht : nextTurn s = .engine) : step s = .next (s.afterSample rest) := by
  have hbit : ((dropTurn s).popUop rest).sampled .sda = !s.pull.sda := State.sampled_released hsda
  have hdrv : s.eng.drv.set .sda .rel = s.eng.drv := by rw [Pads.set_sda, ← hsda]
  have hexec : exec (Uop.smp .sda).toInstr ((dropTurn s).popUop rest) = .next (s.afterSample rest) := by
    simp only [Uop.toInstr, exec_smp_sda, hbit]
    simp only [State.afterSample, Engine.setDrv, Engine.log, State.popUop, dropTurn, hdrv]
  rw [step_uop ht h.cur h.resetting h.queue hexec, State.finish_more]
  simpa [State.afterSample] using hrest

/-- Quiet micro-ops with one sample of released SDA among them, not up to the end of the command. -/
theorem runSteps_sampled {pre post : List Uop} (h : InCommand c (pre ++ (.smp .sda :: (post ++ rest))) s)
    (hpre : pre.all Uop.quiet = true) (hpost : post.all Uop.quiet = true) (hrest : rest ≠ [])
    (hsda : (replay s.eng.drv pre).sda = .rel) (ha : EngineFor (pre.length + (post.length + 1)) s.agenda) :
    runSteps (pre.length + (post.length + 1)) s = .next
      (((s.afterUops pre (.smp .sda :: (post ++ rest))).afterSample (post ++ rest)).afterUops post rest) := by
  obtain ⟨hfirst, hmore⟩ := ha.add
  obtain ⟨ht, hlater⟩ := EngineFor.succ (s := s.afterUops pre (.smp .sda :: (post ++ rest))) hmore
  have hsample := step_sample h.afterUops (by simp [hrest]) hsda ht
  have hend := runSteps_quiet h.afterUops.afterSample hpost hrest hlater
  exact runSteps_add (runSteps_quiet h hpre (by simp) hfirst) ((runSteps_succ _ hsample).trans hend)

end Runs

/-! ## SEND_BYTE -/

/-- SEND_BYTE up to its acknowledge sample (41_bus_transport.md R140). -/
def beforeAck (p : Params) (v : Byte) : List Uop :=
  (byteBits v).flatMap (txbit p) ++ [.rel .sda, .wait p.nAckSetup, .rel .scl, .wait p.nAckWin]

/-- SEND_BYTE, cut at its acknowledge sample. -/
theorem expandSendByte_split (p : Params) (v : Byte) : expandSendByte p v =
    beforeAck p v ++ (.smp .sda :: ([.low .scl, .low .sda] ++ [.wait p.nAckHold])) := by
  simp [expandSendByte, beforeAck, ackPhase]

theorem quiet_txbit (p : Params) (b : Bool) : (txbit p b).all Uop.quiet = true := by
  cases b <;> rfl

theorem quiet_beforeAck (p : Params) (v : Byte) : (beforeAck p v).all Uop.quiet = true := by
  simp [beforeAck, List.all_flatMap, quiet_txbit, Uop.quiet]

/-- The acknowledge is sampled with SDA released. -/
theorem replay_beforeAck (d : Pads) (p : Params) (v : Byte) : (replay d (beforeAck p v)).sda = .rel := by
  rw [beforeAck, replay_append]
  rfl

/-- The events of quiet micro-ops record them. -/
@[simp] theorem filterMap_uopEvent (us : List Uop) : (us.map (uopEvent false)).filterMap Event.uop = us := by
  simp [List.filterMap_map]

/-- SEND_BYTE to its completion, if the remote device keeps its drive of SDA. -/
theorem exists_run_sendByte {s : State} {v : Byte} (h : InCommand (.sendByte v) (expandSendByte s.cfg v) s)
    (ha : s.agenda = []) : ∃ (t : State) (evs : List Event), runSteps 56 s = .next t ∧ t.eng = { s.eng with
      cur := none
      uq := []
      upc := s.eng.upc + 56
      drv := ⟨.low, .low⟩
      err := s.eng.err || !s.pull.sda
      hist := s.eng.hist ++ evs ++ [.done (.sendByte v)] } ∧
    evs.filterMap Event.uop = expandSendByte s.cfg v ∧ .sample .sda (!s.pull.sda) ∈ evs := by
  have hsplit := expandSendByte_split s.cfg v
  rw [hsplit] at h
  have hrun := runSteps_sampled (post := [.low .scl, .low .sda]) h (quiet_beforeAck _ _) rfl (by simp)
    (replay_beforeAck ..) (by rw [ha]; exact engineFor_nil _)
  have hlast := step_last (h.afterUops.afterSample.afterUops (us := [.low .scl, .low .sda])) rfl
    (nextTurn_nil (by simp [State.afterUops, State.afterSample, ha]))
  refine ⟨_, (beforeAck s.cfg v).map (uopEvent false) ++ [.sample .sda (!s.pull.sda)] ++
    [.drive .scl .low, .drive .sda .low, .wait s.cfg.nAckHold], runSteps_add hrun (runSteps_succ 0 hlast), ?_, ?_, by simp⟩
  · have hdrv (d : Pads) : replay (replay d [.low .scl, .low .sda]) [.wait s.cfg.nAckHold] = ⟨.low, .low⟩ := rfl
    have hlen : (beforeAck s.cfg v).length = 52 := rfl
    simp [State.afterUops, State.afterSample, Engine.complete_eq, h.cur, Engine.deliver, uopEvent, hdrv, hlen]
  · rw [hsplit, List.filterMap_append, List.filterMap_append, filterMap_uopEvent, List.append_assoc]
    rfl

/-- SEND_BYTE's word is its opcode and the byte (30_encoding.md R81, R82). -/
theorem sendByte_word (v : Byte) : 0x2000#32 + v.setWidth 32 = (Cmd.sendByte v).word := by
  apply BitVec.eq_of_toNat_eq
  rw [Cmd.word_toNat, Cmd.toInstr, encodeNat, BitVec.toNat_add, BitVec.toNat_setWidth]
  simp
  omega

/-- Settles O44: the acceptance, the remote device's action, and the run of SEND_BYTE. -/
theorem sendByteRecordsAcknowledge : Obligations.SendByteRecordsAcknowledge := by
  intro s v a hinv hc hp ha
  rw [sendByte_word] at ha
  let m : State :=
    { s with agenda := [], pull := s.pull.set .sda (!a), eng := s.eng.accept s.cfg (.sendByte v) }
  have hstart : runSteps 2 s = .next m :=
    (runSteps_succ 1 (step_accept (c := .sendByte v) hc hp ha)).trans (runSteps_succ 0 (step_remote rfl))
  have hin : InCommand (.sendByte v) (expandSendByte m.cfg v) m := ⟨rfl, hinv.resetting_none hc, hinv.timer, rfl⟩
  obtain ⟨t, evs, hrun, he, huops, hmem⟩ := exists_run_sendByte hin rfl
  have hbit : (!m.pull.sda) = a := Bool.not_not a
  rw [hbit] at he hmem
  refine ⟨t, evs, runSteps_add hstart hrun, ?_⟩
  rw [he]
  exact ⟨rfl, rfl, rfl, hp, rfl, rfl, rfl, rfl, rfl, rfl, huops, hmem⟩

end Sys2Proof

/-! PROOF. READ_WORD reads the word that the remote device sends (O45). `Receiving` says what the cells so far have made of the
engine: `rxacc` holds the bits sent; each cell adds its bit (`Receiving.cell`), and the micro-ops between the cells keep it. -/

namespace Sys2Proof

open Machine

/-- READ_WORD, begun in `s`, is in execution with the micro-ops `us` left, and has sampled the bits `sent`. -/
structure Receiving (s : State) (sent : List Bool) (us : List Uop) (t : State) : Prop where
  inCommand : InCommand .readWord us t
  cfg : t.cfg = s.cfg
  replies : t.replies = s.replies
  err : t.eng.err = s.eng.err
  phase : t.eng.phase = s.eng.phase
  nsmp : t.eng.nsmp = sent.length
  rxacc : ∀ k, k < sent.length → sent[k]? = some (t.eng.rxacc.getLsbD (15 - k))

/-- The remote device sends the bits `bs`, each just before its cell. -/
def sendingCells (bs : List Bool) : List Turn :=
  bs.flatMap (fun b => .remote .sda (!b) :: List.replicate 7 .engine)

section Receiving

variable {s t : State} {sent : List Bool} {us rest : List Uop} {more : List Turn}

/-- Quiet micro-ops, not up to the end of the command. -/
theorem Receiving.quiet (h : Receiving s sent (us ++ rest) t) (hus : us.all Uop.quiet = true) (hrest : rest ≠ [])
    (ha : t.agenda = List.replicate us.length .engine ++ more) : ∃ m, runSteps us.length t = .next m ∧
      Receiving s sent rest m ∧ m.agenda = more ∧ m.eng.drv = replay t.eng.drv us := by
  refine ⟨_, runSteps_quiet h.inCommand hus hrest (by rw [ha]; exact engineFor_replicate _ _), ?_, ?_, rfl⟩
  · exact { h with inCommand := h.inCommand.afterUops }
  · simp [State.afterUops, ha]

/-- A receive cell, in which the remote device sends `b` (41_bus_transport.md R123, R150). -/
theorem Receiving.cell {b : Bool} (h : Receiving s sent (rxbit s.cfg ++ rest) t) (hlen : sent.length < 16)
    (hrest : rest ≠ []) (hsda : t.eng.drv.sda = .rel)
    (ha : t.agenda = .remote .sda (!b) :: (List.replicate 7 .engine ++ more)) : ∃ m, runSteps 8 t = .next m ∧
      Receiving s (sent ++ [b]) rest m ∧ m.agenda = more ∧ m.eng.drv.sda = .rel := by
  have hremote := step_remote (nextTurn_cons ha)
  have hin : InCommand .readWord ([.wait s.cfg.nBitSetup, .rel .scl, .wait s.cfg.nRdPre] ++
      (.smp .sda :: ([.wait s.cfg.nRdPost, .low .scl, .wait s.cfg.nBitLow] ++ rest))) ((dropTurn t).remotePull .sda (!b)) :=
    ⟨h.inCommand.cur, h.inCommand.resetting, h.inCommand.timer, h.inCommand.queue⟩
  have hrun := runSteps_sampled hin rfl rfl hrest hsda
    (by simp only [State.remotePull_agenda, dropTurn_agenda, ha, List.tail_cons]; exact engineFor_replicate _ _)
  have hcur := h.inCommand.cur
  refine ⟨_, (runSteps_succ 7 hremote).trans hrun, ?_, ?_, ?_⟩
  · exact {
      inCommand := hin.afterUops.afterSample.afterUops
      cfg := h.cfg
      replies := h.replies
      err := by simpa [State.afterUops, State.afterSample, hcur, Engine.deliver] using h.err
      phase := by simpa [State.afterUops, State.afterSample] using h.phase
      nsmp := by simpa [State.afterUops, State.afterSample, hcur, Engine.deliver] using h.nsmp
      rxacc := by
        simpa [State.afterUops, State.afterSample, hcur, Engine.deliver, h.nsmp] using
          samples_putSample b hlen rfl h.rxacc }
  · simp [State.afterUops, State.afterSample, ha]
  · simpa [State.afterUops, State.afterSample, replay, Pads.after] using hsda

/-- As many receive cells as the remote device sends bits. -/
theorem Receiving.cells {bs : List Bool} (h : Receiving s sent ((List.replicate bs.length (rxbit s.cfg)).flatten ++ rest) t)
    (hlen : sent.length + bs.length ≤ 16) (hrest : rest ≠ []) (hsda : t.eng.drv.sda = .rel)
    (ha : t.agenda = sendingCells bs ++ more) : ∃ m, runSteps (8 * bs.length) t = .next m ∧
      Receiving s (sent ++ bs) rest m ∧ m.agenda = more := by
  induction bs generalizing sent t with
  | nil => exact ⟨t, rfl, by simpa using h, ha⟩
  | cons b bs ih =>
    rw [List.length_cons] at hlen
    rw [List.length_cons, List.replicate_succ, List.flatten_cons, List.append_assoc] at h
    rw [sendingCells, List.flatMap_cons, List.append_assoc, List.cons_append] at ha
    obtain ⟨m, hcell, hm, hma, hmsda⟩ := h.cell (by omega) (by simp [hrest]) hsda ha
    obtain ⟨n, hrun, hn, hna⟩ := ih hm (by simp; omega) hmsda hma
    refine ⟨n, ?_, by simpa using hn, hna⟩
    rw [List.length_cons, Nat.mul_succ, Nat.add_comm]
    exact runSteps_add hcell hrun

/-- The release of SDA and the eight cells of a byte (41_bus_transport.md R150). -/
theorem Receiving.byte {bs : List Bool} (h : Receiving s sent (.rel .sda :: (rxbyte s.cfg ++ rest)) t) (hbs : bs.length = 8)
    (hlen : sent.length ≤ 8) (hrest : rest ≠ []) (ha : t.agenda = .engine :: (sendingCells bs ++ more)) :
    ∃ m, runSteps 65 t = .next m ∧ Receiving s (sent ++ bs) rest m ∧ m.agenda = more := by
  obtain ⟨m, hrel, hm, hma, hdrv⟩ := Receiving.quiet (us := [.rel .sda]) (rest := rxbyte s.cfg ++ rest) h rfl (by simp [hrest]) ha
  rw [rxbyte, ← hbs] at hm
  obtain ⟨n, hrun, hn, hna⟩ := hm.cells (by omega) hrest (by rw [hdrv]; rfl) hma
  rw [hbs] at hrun
  exact ⟨n, runSteps_add hrel hrun, hn, hna⟩

/-- The end of READ_WORD: its result is the word whose samples were sent (41_bus_transport.md R150, R151). -/
theorem Receiving.finish (h : Receiving s sent (txbit s.cfg true ++ [.wait s.cfg.nRdNackSettle]) t)
    (hlen : sent.length = 16) (ha : t.agenda = List.replicate 6 .engine ++ .engine :: more) :
    ∃ m, runSteps 7 t = .next m ∧ m.agenda = more ∧ m.cfg = s.cfg ∧ m.replies = s.replies ∧ m.eng.cur = none ∧
      m.eng.rx = wordOfSamples sent ∧ m.eng.rxv = true ∧ m.eng.err = s.eng.err ∧ m.eng.phase = s.eng.phase ∧
      m.eng.drv = ⟨.low, .rel⟩ := by
  obtain ⟨n, hrun, hn, hna, hdrv⟩ := Receiving.quiet (us := txbit s.cfg true) h rfl (by simp) ha
  have hlast := step_last hn.inCommand rfl (nextTurn_cons hna)
  have hword : wordOfSamples sent = assembleWord n.eng.rxacc :=
    wordOfSamples_eq_assembleWord hlen fun k hk => hn.rxacc k (by omega)
  rw [replay_txbit] at hdrv
  refine ⟨_, runSteps_add hrun (runSteps_succ 0 hlast), ?_, hn.cfg, hn.replies, rfl, hword.symm, rfl, hn.err, hn.phase, ?_⟩
  · simp [State.afterUops, hna]
  · simp [State.afterUops, hdrv, replay, Pads.after]

end Receiving

/-- The turns in which the remote device sends a byte. -/
theorem sendingByte_append (bs : List Bool) (more : List Turn) :
    sendingByte bs ++ more = .engine :: (sendingCells bs ++ (List.replicate 7 .engine ++ more)) := by
  simp [sendingByte, sendingCells]

/-- READ_WORD, cut after the settle of its first byte. -/
theorem expandReadWord_bytes (p : Params) : expandReadWord p =
    .rel .sda :: (rxbyte p ++ ((txbit p false ++ [.wait p.nRdAckSettle]) ++ (.rel .sda :: (rxbyte p ++
      (txbit p true ++ [.wait p.nRdNackSettle]))))) := by
  simp [expandReadWord_eq]

/-- Settles O45: the acceptance, two bytes, the end of READ_WORD and the read of `RXDATA`. -/
theorem readWordReturnsSentWord : Obligations.ReadWordReturnsSentWord := by
  intro s w hinv hc hp ha
  let low := byteBits (w.extractLsb' 0 8)
  let high := byteBits (w.extractLsb' 8 8)
  let read : Turn := .hostRead (s.cfg.engineBase + 8) 4
  let m : State := { s with agenda := sendingWord w ++ [read], eng := s.eng.accept s.cfg .readWord }
  have haccept : step s = .next m := step_accept (c := .readWord) hc hp ha
  have hm : Receiving s [] (expandReadWord s.cfg) m :=
    ⟨⟨rfl, hinv.resetting_none hc, hinv.timer, rfl⟩, rfl, rfl, rfl, rfl, rfl, by simp⟩
  have hma : m.agenda = .engine :: (sendingCells low ++ (List.replicate 7 .engine ++
      .engine :: (sendingCells high ++ (List.replicate 7 .engine ++ [read])))) := by
    rw [← sendingByte_append, ← sendingByte_append, ← List.append_assoc]
    rfl
  rw [expandReadWord_bytes] at hm
  obtain ⟨m₁, hrun₁, hm₁, hma₁⟩ := hm.byte rfl (by simp) (by simp) hma
  obtain ⟨m₂, hrun₂, hm₂, hma₂, -⟩ := hm₁.quiet rfl (by simp) hma₁
  obtain ⟨m₃, hrun₃, hm₃, hma₃⟩ := hm₂.byte rfl (Nat.le_refl 8) (by simp) hma₂
  obtain ⟨m₄, hrun₄, hma₄, hcfg, hreplies, hcur, hrx, hrxv, herr, hphase, hdrv⟩ := hm₃.finish rfl hma₃
  have hread : step m₄ = .next ((dropTurn m₄).readReg .rxdata) :=
    step_read (nextTurn_cons hma₄) (by rw [← hcfg]; exact locate_rxdata m₄.cfg)
  have hword : m₄.eng.rx = w := hrx.trans (wordOfSamples_byteBits w)
  have hlen : s.agenda.length = 1 + (65 + (7 + (65 + (7 + 1)))) := by rw [ha]; rfl
  refine ⟨(dropTurn m₄).readReg .rxdata, ?_, ?_, hword, hrxv, hcur, herr, hphase.trans hp, hdrv⟩
  · rw [hlen]
    exact runSteps_add (runSteps_succ 0 haccept) (runSteps_add hrun₁ (runSteps_add hrun₂ (runSteps_add hrun₃
      (runSteps_add hrun₄ (runSteps_succ 0 hread)))))
  · simp [State.regValue, hreplies, hrxv, hword]

end Sys2Proof

/-! PROOF. What does not happen: with no command in execution the engine does nothing (O22), no instruction stops the machine and
a step stops only at a host access that is not admitted (O24), and no fault flag is set without its `Reject` event (O42). -/

namespace Sys2Proof

open Machine

/-! ## The engine's turn -/

/-- The engine's turn with no command in execution (60_exceptions.md R187). -/
theorem step_idle {s : State} (ht : nextTurn s = .engine) (hc : s.eng.cur = none) : step s = .next (dropTurn s) := by
  simp only [step, ht, takeTurn, engineTurn, dropTurn_eng, hc]

/-- Settles O22: with the engine's action or none at the head of the agenda it is the engine's turn, and `step_idle` is that
turn. -/
theorem idleEngineDoesNothing : Obligations.IdleEngineDoesNothing := by
  intro s ha hc
  obtain ha | ⟨more, ha⟩ := ha
  · exact step_idle (nextTurn_nil ha) hc
  · exact step_idle (nextTurn_cons ha) hc

/-- In a state that meets the invariant the engine's turn reaches a next state: a command in execution has a micro-op left
(10_state.md R27), or is being aborted (70_reset_and_hazards.md R201). -/
theorem step_engine_next {s : State} (hinv : Inv s) (ht : nextTurn s = .engine) : ∃ t, step s = .next t := by
  cases hc : s.eng.cur with
  | none => exact ⟨_, step_idle ht hc⟩
  | some c =>
    cases hr : s.resetting with
    | none =>
      obtain ⟨t, _, _, _, hstep, -⟩ := step_in_command hinv hc hr ht
      exact ⟨t, hstep⟩
    | some l => exact ⟨_, step_resetEnd ht (by simp [hc]) hr⟩

/-! ## What stops the machine -/

/-- Every instruction answers a next state: a command by R120, a micro-op by R100 to R103. -/
theorem exec_next (i : Instr) (s : State) : ∃ t, exec i s = .next t := by
  cases i with
  | start => exact ⟨_, exec_command .start s⟩
  | sendByte v => exact ⟨_, exec_command (.sendByte v) s⟩
  | rstart => exact ⟨_, exec_command .rstart s⟩
  | readWord => exact ⟨_, exec_command .readWord s⟩
  | stop => exact ⟨_, exec_command .stop s⟩
  | rel l => exact exec_uop_next (.rel l) s
  | low l => exact exec_uop_next (.low l) s
  | smp l => exact exec_uop_next (.smp l) s
  | wait n => exact exec_uop_next (.wait n) s

/-- An action of another agent than the engine is the head of the agenda (20_memory.md R59). -/
theorem agenda_of_nextTurn {s : State} {a : Turn} (ht : nextTurn s = a) (hne : a ≠ .engine) :
    s.agenda = a :: s.agenda.tail := by
  cases h : s.agenda with
  | nil => exact absurd (ht.symm.trans (nextTurn_nil h)) hne
  | cons b rest => rw [← ht, nextTurn_cons h, List.tail_cons]

/-- A 32-bit access at the `k`-th of the four registers reaches a next state (20_memory.md R52). -/
theorem step_registerAccess_next {s : State} {a n k : Nat} {v : Word} {rest : List Turn}
    (h : s.agenda = .hostRead a n :: rest ∨ s.agenda = .hostWrite a n v :: rest) (hn : n = 4) (hk : k < 4)
    (ha : a = s.cfg.engineBase + 4 * k) : ∃ t, step s = .next t := by
  subst hn ha
  obtain ⟨r, hl⟩ := locate_admitted (p := s.cfg) (off := 4 * k) (by omega) (by omega)
  exact step_of_locate_reg h hl

/-- Settles O24: every action but the host's own access reaches a next state, and so does an admitted access. -/
theorem onlyBadAccessesStop : Obligations.OnlyBadAccessesStop := by
  refine ⟨exec_next, fun s hinv hstop => ?_⟩
  cases ht : nextTurn s with
  | engine => exact absurd (step_engine_next hinv ht) hstop
  | host => exact absurd (step_host_next (agenda_of_nextTurn ht nofun)) hstop
  | hostRead a n =>
    refine ⟨a, n, .inl rfl, fun ⟨hn, k, hk, ha⟩ => hstop ?_⟩
    exact step_registerAccess_next (v := 0#32) (.inl (agenda_of_nextTurn ht nofun)) hn hk ha
  | hostWrite a n v =>
    refine ⟨a, n, .inr ⟨v, rfl⟩, fun ⟨hn, k, hk, ha⟩ => hstop ?_⟩
    exact step_registerAccess_next (.inr (agenda_of_nextTurn ht nofun)) hn hk ha
  | remote l x => exact absurd ⟨_, step_remote ht⟩ hstop
  | reset l => exact absurd ⟨(dropTurn s).resetBegin l, by simp only [step, ht, takeTurn]⟩ hstop

/-! ## The fault flags and the history -/

/-- A flag that a step sets gets its event, and the events of the flags set before stay in the history
(60_exceptions.md R171). -/
theorem Machine.EngineCase.faultsRecorded {s : State} {e : Engine} {r : Option Line} (h : EngineCase s e r)
    (hs : FaultsRecorded s.eng) : FaultsRecorded e := by
  intro k hk
  cases hold : s.eng.flag k with
  | false =>
    obtain ⟨w, -, hhist⟩ := h.flag_set hold hk
    exact ⟨w, by simp [hhist]⟩
  | true =>
    obtain ⟨w, hw⟩ := hs k hold
    obtain ⟨evs, hhist, -⟩ := h.hist_appends
    exact ⟨w, hhist ▸ List.mem_append_left evs hw⟩

/-- Every step keeps a `Reject` event for each fault flag that is set. -/
theorem faultsRecorded_step {s t : State} (hs : FaultsRecorded s.eng) (h : step s = .next t) : FaultsRecorded t.eng :=
  (step_case h).engine.faultsRecorded hs

/-- Every reachable state has a `Reject` event for each fault flag that is set. -/
theorem reachable_faultsRecorded {s : State} (h : Reachable s) : FaultsRecorded s.eng := by
  refine reachable_induction (P := fun s => FaultsRecorded s.eng) (fun p agenda => ?_) (fun _ _ => faultsRecorded_step) h
  obtain ⟨-, -, hreset⟩ := resetMeetsInvariant p agenda
  exact hreset

/-- Without a `Reject` event no fault flag is set (60_exceptions.md R178). -/
theorem FaultsRecorded.flag_eq_false {e : Engine} (h : FaultsRecorded e) (hno : NoReject e.hist) (k : RejectKind) :
    e.flag k = false := by
  rw [Bool.eq_false_iff]
  intro hk
  obtain ⟨w, hw⟩ := h k hk
  exact hno w k hw

/-- Settles O42: a step keeps the flags' events (`faultsRecorded_step`), so every reachable state has them. -/
theorem faultFlagsRecorded : Obligations.FaultFlagsRecorded := by
  refine ⟨fun _ _ => faultsRecorded_step, fun s hreach hno => ?_⟩
  have hflag := (reachable_faultsRecorded hreach).flag_eq_false hno
  exact ⟨hflag .ill, hflag .seq, hflag .ovr⟩

end Sys2Proof

/-! PROOF. Reset (O35, O36). Asserting the input while a command is in execution releases one line (`step_reset_abort`), and the
engine's next step releases the other and makes reset take effect (`step_of_resetTakesEffect`). What a release makes on the wire
depends on the line and on the lines before it alone (`stopCondition_release_iff`, `dataChange_release_iff`). -/

namespace Sys2Proof

open Machine

/-! ## The steps of a reset (70_reset_and_hazards.md R200, R201) -/

/-- The reset input's action. -/
theorem step_reset {s : State} {first : Line} (ht : nextTurn s = .reset first) :
    step s = .next ((dropTurn s).resetBegin first) := by
  simp only [step, ht, takeTurn]

/-- The first step of a reset that aborts a command. -/
theorem step_reset_abort {s : State} {first : Line} {rest : List Turn} (h : s.agenda = .reset first :: rest)
    (hc : s.eng.cur ≠ none) (hr : s.resetting = none) :
    step s = .next { s with agenda := rest, eng := s.eng.release first, resetting := some (otherLine first) } := by
  rw [step_reset (nextTurn_cons h), State.resetBegin_abort (s := dropTurn s) hc hr, dropTurn_cons h]

/-- Asserting the input again before the second release does nothing (log entry 20). -/
theorem step_reset_again {s : State} {first second : Line} {rest : List Turn} (h : s.agenda = .reset first :: rest)
    (hc : s.eng.cur ≠ none) (hr : s.resetting = some second) : step s = .next { s with agenda := rest } := by
  rw [step_reset (nextTurn_cons h), State.resetBegin_again (s := dropTurn s) hc hr, dropTurn_cons h]

/-- The step in which reset takes effect is `resetNow`, of an engine that has recorded the release of the second line when a
command is being aborted. -/
theorem step_of_resetTakesEffect {s : State} (h : resetTakesEffect s) :
    ∃ (e : Engine) (evs : List Event), step s = .next (State.resetNow { dropTurn s with eng := e }) ∧
      e.hist = s.eng.hist ++ evs ∧ (s.eng.cur = none → evs = []) ∧
      ∀ l, s.eng.cur ≠ none → s.resetting = some l → evs = [.drive l .rel] := by
  obtain ⟨⟨first, ht⟩, hc⟩ | ⟨ht, hc, hr⟩ := h
  · refine ⟨s.eng, [], ?_, (List.append_nil _).symm, fun _ => rfl, fun _ hne _ => absurd hc hne⟩
    rw [step_reset ht, State.resetBegin_idle (s := dropTurn s) hc]
    rfl
  · obtain ⟨second, hr⟩ := Option.ne_none_iff_exists'.1 hr
    refine ⟨s.eng.release second, [.drive second .rel], step_resetEnd ht hc hr, rfl, fun hnone => absurd hnone hc, ?_⟩
    rintro l - hl
    rw [Option.some.inj (hr.symm.trans hl)]

/-- `STATUS` reads 0 after reset (10_state.md R35, R39). -/
theorem Machine.Engine.resetTo_statusWord (e : Engine) (rx acc : Half) : (e.resetTo rx acc).statusWord = 0#32 := by
  simp [Engine.statusWord, Engine.busy, bitAt]

/-- Settles O35: reset takes effect as `resetNow` (`step_of_resetTakesEffect`), which holds the reset values; while a command is
in execution, asserting the input releases the first line, or does nothing when that is done already. -/
theorem resetFromAnyState : Obligations.ResetFromAnyState := by
  refine ⟨fun s h => ?_, fun s first rest h hc => ⟨fun hr => ?_, fun hr => ?_⟩⟩
  · obtain ⟨e, evs, hstep, hhist, hidle, habort⟩ := step_of_resetTakesEffect h
    refine ⟨_, evs, hstep, rfl, rfl, rfl, rfl, rfl, rfl, rfl, rfl, rfl, rfl, rfl, rfl, Engine.resetTo_statusWord .., rfl, rfl,
      ?_, hidle, habort, rfl, rfl, rfl, rfl, rfl, rfl, rfl⟩
    rw [← hhist]
    rfl
  · rw [step_reset_abort h hc hr]
    cases first <;> rfl
  · obtain ⟨second, hr⟩ := Option.ne_none_iff_exists'.1 hr
    exact step_reset_again h hc hr

/-! ## The lines during a reset that aborts a command -/

/-- Releasing one line and then the other releases both. -/
theorem Machine.Pads.release_both (d : Pads) (l : Line) : (d.set l .rel).set (otherLine l) .rel = Pads.released := by
  cases l <;> rfl

/-- Each of the two steps releases one line, and the second ends the command and the reset. -/
theorem exists_abort_steps {s : State} {first : Line} {rest : List Turn} (h : s.agenda = .reset first :: .engine :: rest)
    (hc : s.eng.cur ≠ none) (hr : s.resetting = none) :
    ∃ t u : State, step s = .next t ∧ step t = .next u ∧ t.pull = s.pull ∧ u.pull = s.pull ∧
      t.eng.drv = s.eng.drv.set first .rel ∧ u.eng.drv = t.eng.drv.set (otherLine first) .rel ∧
      u.eng.cur = none ∧ u.resetting = none :=
  ⟨_, _, step_reset_abort h hc hr, step_resetEnd (l := otherLine first) rfl hc rfl, rfl, rfl, rfl,
    (s.eng.drv.release_both first).symm, rfl, rfl⟩

section Release

variable {s t : State} {l : Line} (hs : RemoteSilent s) (ht : RemoteSilent t) (hd : t.eng.drv = s.eng.drv.set l .rel)

include hs ht hd

/-- A release makes a stop condition exactly when SDA rises by it while SCL is released. -/
theorem stopCondition_release_iff : stopCondition s t ↔ l = .sda ∧ s.eng.drv = ⟨.rel, .low⟩ := by
  rw [stopCondition_iff hs ht, hd, StopEdge]
  cases l <;> rcases s.eng.drv with ⟨_ | _, _ | _⟩ <;> simp

/-- A release makes a data change exactly when SDA rises by it while SCL is low. -/
theorem dataChange_release_iff : dataChange s t ↔ l = .sda ∧ s.eng.drv = ⟨.low, .low⟩ := by
  rw [dataChange, hs.level, hs.level, ht.level, ht.level, hd]
  cases l <;> rcases s.eng.drv with ⟨_ | _, _ | _⟩ <;> simp

/-- A release makes no start condition: no line falls. -/
theorem not_startCondition_release : ¬startCondition s t := by
  rw [startCondition_iff hs ht, hd]
  rintro ⟨hbefore, hafter⟩
  rw [hbefore] at hafter
  cases l <;> cases hafter

end Release

/-- Settles O36: the first step releases `first` from the lines as they are, the second the other line from what that leaves. -/
theorem resetReleaseOrder : Obligations.ResetReleaseOrder := by
  intro s first rest hc hr hs h
  obtain ⟨t, u, hst, htu, htpull, hupull, htdrv, hudrv, hcur, hover⟩ := exists_abort_steps h hc hr
  have ht : RemoteSilent t := htpull.trans hs
  have hu : RemoteSilent u := hupull.trans hs
  have hboth : u.eng.drv = Pads.released := by rw [hudrv, htdrv, Pads.release_both]
  refine ⟨t, u, hst, htu, hcur, hboth, hover, stopCondition_release_iff hs ht htdrv, ?_,
    dataChange_release_iff hs ht htdrv, ?_, not_startCondition_release hs ht htdrv, not_startCondition_release ht hu hudrv⟩
  · rw [stopCondition_release_iff ht hu hudrv, htdrv]
    cases first <;> simp
  · rw [dataChange_release_iff ht hu hudrv, htdrv]
    cases first <;> simp

end Sys2Proof

/-! PROOF. The nominal timelines (O54). Offsets compose as durations add (`timeline_append`), so the tables of SEND_BYTE and
READ_WORD are those of their cells, each 4 T after the one before it (41_bus_transport.md R123). -/

namespace Sys2Proof

open Machine

/-- Micro-ops behind others start when those are over. -/
theorem Machine.timeline_append (t : Nat) (us vs : List Uop) :
    timeline t (us ++ vs) = timeline t us ++ timeline (t + nominal us) vs := by
  induction us generalizing t with
  | nil => rfl
  | cons u us ih => cases u <;> simp [timeline, nominal, ih, Nat.add_assoc]

theorem Machine.nominal_cells (n : Nat) (us : List Uop) : nominal (List.replicate n us).flatten = nominal us * n := by
  induction n with
  | zero => rfl
  | succ n ih => simp [List.replicate_succ', ih, Nat.mul_succ]

/-- Of equal cells in a row, cell `k` starts after `k` durations of a cell. -/
theorem Machine.timeline_cells (t n : Nat) (us : List Uop) :
    timeline t (List.replicate n us).flatten = (List.range n).flatMap (fun k => timeline (t + nominal us * k) us) := by
  induction n with
  | zero => rfl
  | succ n ih => simp [List.replicate_succ', List.range_succ, timeline_append, nominal_cells, ih]

/-- The transmit bit cell at the defaults (70_reset_and_hazards.md R231). -/
theorem timeline_txbit_default (t : Nat) (x : Bool) :
    timeline t (txbit defaultParams x) = [(t, dataUop x), (t + 1, .rel .scl), (t + 3, .low .scl)] := by
  cases x <;> rfl

/-- The eight receive bit cells of a byte at the defaults (70_reset_and_hazards.md R233). -/
theorem timeline_rxbyte_default (t : Nat) : timeline t (rxbyte defaultParams) = (List.range 8).flatMap (fun k =>
    [(t + 4 * k + 1, .rel .scl), (t + 4 * k + 2, .smp .sda), (t + 4 * k + 3, .low .scl)]) :=
  timeline_cells t 8 (rxbit defaultParams)

/-- A transmit bit cell takes 4 T at the defaults (41_bus_transport.md R123). -/
theorem nominal_txbit_default (x : Bool) : nominal (txbit defaultParams x) = 4 := nominal_txbit defaultParams x

/-- Eight receive bit cells take 32 T at the defaults (41_bus_transport.md R123). -/
theorem nominal_rxbyte_default : nominal (rxbyte defaultParams) = 32 := nominal_rxbyte defaultParams

/-- Settles O54: START, RSTART and STOP are computed; SEND_BYTE and READ_WORD are cut into their bit cells. -/
theorem nominalTimelines : Obligations.NominalTimelines := by
  refine ⟨⟨rfl, rfl⟩, fun v => ⟨?_, nominal_sendByte_default v⟩, ⟨rfl, rfl⟩,
    ⟨?_, nominal_expandReadWord defaultParams⟩, rfl, rfl⟩
  · simp only [expand, expandSendByte_eq, timeline_append, timeline_txbit_default, nominal_txbit_default]
    rfl
  · have hsettle : defaultParams.nRdAckSettle.count = 40 := rfl
    simp [-nominal_txbit, expand, expandReadWord_eq, timeline_append, timeline_txbit_default, timeline_rxbyte_default,
      nominal_txbit_default, nominal_rxbyte_default, hsettle, timeline, dataUop]

end Sys2Proof
